-- ==== Sys2Proof/Word.lean ====
section
/-! DEFINITION. The word types: a byte (00_scope.md R8), the command word and the 104-bit frame ports (30_encoding.md R84, R85), and a frame as 13 bytes (R9, R80). -/

namespace Sys2Proof

/-- A byte, bit 0 least significant (R8). Ring elements and frame fields are bytes, always unsigned. -/
abbrev Byte := BitVec 8

/-- The command word port `cw` (R84, R85). -/
abbrev CmdWord := BitVec 20

/-- A frame as it stands on the 104-bit ports `fin` and `fout` (R84). -/
abbrev FrameWord := BitVec 104

/-- A frame `f[0]` to `f[12]`, `f[0]` first on the line (R9, R80). -/
abbrev Frame := Vector Byte 13

end Sys2Proof
end

