-- ==== Sys2Proof/Config.lean ====
section
/-! DEFINITION. The parameters of a block (00_scope.md R6), the wire constants (R7), and the free values of what the spec leaves unspecified. -/

namespace Sys2Proof

/-- Ring buffer capacity `C`, an open parameter; `C = 0` cannot be built (R6, R195, R225). -/
abbrev Capacity := { n : Nat // 1 ≤ n ∧ n ≤ 65535 }

/-- `PUSH_POLICY`: which insertion command the producer agent uses (R6, D18). -/
inductive PushPolicy where
  | dropNewest
  | dropOldest
deriving DecidableEq, Repr

/-- The parameters of R6, fixed before reset and not changeable afterwards (R29). -/
structure Params where
  capacity     : Capacity
  pushPolicy   : PushPolicy
  strayRestart : Bool
deriving DecidableEq, Repr

/-- `IW`, the width of `rd` and `wr` in bits (R6). -/
def Params.indexWidth (p : Params) : Nat := max 1 (Nat.clog 2 p.capacity.val)

/-- `CW`, the width of `count` in bits (R6). -/
def Params.countWidth (p : Params) : Nat := Nat.clog 2 (p.capacity.val + 1)

/-- DESIGN CHOICE (entry 3): the parameters in the state after reset. `strayRestart` is false in this
hardware (R6, R142); the capacity and the policy are open in the spec. -/
def Params.atReset : Params :=
  { capacity := ⟨16, by decide⟩, pushPolicy := .dropNewest, strayRestart := false }

namespace Config

/-- The header byte, at indices 0 and 1 of a frame (R7). -/
abbrev HEAD : Byte := 0x7B#8
/-- Byte 2 of a built frame (R7). -/
abbrev LEN : Byte := 0x09#8
/-- Byte 4 of a built frame (R7). -/
abbrev CTL4 : Byte := 0x03#8
/-- Byte 5 of a built frame (R7). -/
abbrev CTL5 : Byte := 0x01#8
/-- Byte 7 of a built frame (R7). -/
abbrev ZERO7 : Byte := 0x00#8
/-- Byte 9 of a built frame (R7). -/
abbrev ZERO9 : Byte := 0x00#8
/-- The tail byte, at indices 11 and 12 of a built frame (R7). -/
abbrev TAIL : Byte := 0x7D#8
/-- Index of LEN and first index of the checksum window (R7). -/
abbrev OFF_LEN : Nat := 2
/-- Index of `txAddr` (R7). -/
abbrev OFF_TXADDR : Nat := 3
/-- Index of `addr` (R7). -/
abbrev OFF_ADDR : Nat := 6
/-- Index of the status in a received frame (R7). -/
abbrev OFF_STATUS : Nat := 7
/-- Index of `cmd` in a built frame (R7). -/
abbrev OFF_CMD : Nat := 8
/-- Index of the checksum byte (R7). -/
abbrev OFF_CHK : Nat := 10
/-- The frame length (R6). -/
abbrev FRAME_LEN : Nat := 13

/-- Free value (entry 6): what DOUT shows between the `n`-th hardware reset and the first successful POP after
it (R36, U5). -/
opaque unspecifiedDout : Nat → Byte

/-- Free value (entry 7): what a cell of RB that was never written would read as (R36, U6). -/
opaque unwrittenRb : Nat → Byte

/-- Free value (entry 7): what a cell of FB that was never written would read as (R36, U6). -/
opaque unwrittenFb : Nat → Byte

/-- Free choice (entry 1): whether the producer's command is the next to take effect, at the `n`-th request
served, when both agents have one to issue (R58, U9). -/
opaque producerFirst : Nat → Bool

end Config

end Sys2Proof
end

