-- ==== Sys2Proof/Syntax.lean ====
section
/-! DEFINITION. The instructions: one constructor per row of spec/opcode_table.json, that is the eleven commands (30_encoding.md R86, R95) and the two wire-frame rows (R81, R82); and the transactions that carry their words (R84). -/

namespace Sys2Proof

/-- The commands of R95 and the two wire-frame rows of the table. -/
inductive Instr where
  /-- PUSH (R110). -/
  | push (element : Byte)
  /-- PUSHC (R111). -/
  | pushc (element : Byte)
  /-- POP (R112). -/
  | pop
  /-- PEEK (R113); the index is `a ++ b` (R85). -/
  | peek (idx : BitVec 16)
  /-- RESET (R114). -/
  | reset
  /-- COUNT (R115). -/
  | count
  /-- ISEMPTY (R116). -/
  | isEmpty
  /-- ISFULL (R117). -/
  | isFull
  /-- DSTEP (R147). -/
  | dstep
  /-- BUILD (R170). -/
  | build (address command : Byte)
  /-- CHECKSUM (R183); the frame stands on `fin`. -/
  | checksum (frame : Frame)
  /-- FRAME_TX (R81), the wire frame BUILD emits for an address and a command. -/
  | frameTx (address command : Byte)
  /-- FRAME_RX (R82), a 13-byte run on the line. -/
  | frameRx (frame : Frame)
deriving DecidableEq, Repr

/-- Which way a wire frame travels: out of the block to the byte sink, or in from the byte source (R84). -/
inductive Direction where
  | outbound
  | inbound
deriving DecidableEq, Repr

/-- The words of one transaction: the command port with its wide operand port (R84), or a wire frame with its
direction, packed as on `fin` and `fout` (R51; entries 13 to 16). -/
inductive Transaction where
  | port (cw : CmdWord) (fin : FrameWord)
  | wire (dir : Direction) (frame : FrameWord)
deriving DecidableEq, Repr

end Sys2Proof
end

