-- ==== Sys2Proof/WellFormed.lean ====
section
/-! DEFINITION. Well-formed instructions. Every operand of a command takes all values of its field (30_encoding.md R91); a FRAME_RX run carries the doubled header of its pattern (R82 (a)). -/

namespace Sys2Proof

/-- A run has the two header bytes of the FRAME_RX pattern (R82 (a)). -/
def Frame.hasHeader (f : Frame) : Bool := f[0] == Config.HEAD && f[1] == Config.HEAD

/-- The well-formedness check of an instruction (R82, R91). -/
def Instr.wellFormed : Instr → Bool
  | .push _ => true
  | .pushc _ => true
  | .pop => true
  | .peek _ => true
  | .reset => true
  | .count => true
  | .isEmpty => true
  | .isFull => true
  | .dstep => true
  | .build _ _ => true
  | .checksum _ => true
  | .frameTx _ _ => true
  | .frameRx f => f.hasHeader

end Sys2Proof
end

