-- ==== Sys2Proof/Decode.lean ====
section
/-! DEFINITION. Decoding of the words of a transaction, total, rejecting by name (30_encoding.md R85 to R90, R95); and the encoder, from the same tables. Ignored fields accept any value and are encoded as zeros (R90). -/

namespace Sys2Proof

open Config

/-! ## Frames on the 104-bit ports -/

/-- Byte `f[i]` of a frame port is bits `[8*i+7 : 8*i]` (R51, R84). -/
def unpackFrame (w : FrameWord) : Frame := Vector.ofFn fun i => w.extractLsb' (8 * i.val) 8

/-- A frame laid on a 104-bit port, `f[0]` in the low bits (R51, R84). -/
def packFrame (f : Frame) : FrameWord :=
  f[12] ++ f[11] ++ f[10] ++ f[9] ++ f[8] ++ f[7] ++ f[6] ++ f[5] ++ f[4] ++ f[3] ++ f[2] ++ f[1] ++ f[0]

/-- The byte of a frame at an index; it is read at indices 0 to 12 only. -/
def byteAt (f : Frame) (i : Nat) : Byte := f[i]?.getD 0

/-! ## Fields of the command word (R85) -/

/-- `op = cw[19:16]`. -/
def opField (cw : CmdWord) : BitVec 4 := cw.extractLsb' 16 4

/-- `a = cw[15:8]`. -/
def aField (cw : CmdWord) : Byte := cw.extractLsb' 8 8

/-- `b = cw[7:0]`. -/
def bField (cw : CmdWord) : Byte := cw.extractLsb' 0 8

/-- A command word from its three fields (R85, R93). -/
def commandWord (op : BitVec 4) (a b : Byte) : CmdWord := op ++ a ++ b

/-! ## The wire-frame patterns -/

/-- The frame of R81, byte for byte, with its checksum byte `0x0B ^ c`. -/
def builtPattern (a c : Byte) : Frame :=
  #v[HEAD, HEAD, LEN, a, CTL4, CTL5, a, ZERO7, c, ZERO9, 0x0B#8 ^^^ c, TAIL, TAIL]

/-! ## Decoding -/

/-- Why words are no instruction. -/
inductive DecodeError where
  /-- A reserved opcode, 0x0 or 0xC to 0xF (R89). -/
  | reservedOpcode (op : BitVec 4)
  /-- An outbound run that is not the pattern of R81. -/
  | notABuiltFrame (frame : Frame)
  /-- An inbound run without the doubled header of R82 (a). -/
  | noHeader (frame : Frame)
deriving DecidableEq, Repr

/-- The opcode map of R86 with the operand use of R87. -/
def decodeCommand (cw : CmdWord) (fin : FrameWord) : Except DecodeError Instr :=
  match (opField cw).toNat with
  | 0x1 => .ok (.push (bField cw))
  | 0x2 => .ok (.pushc (bField cw))
  | 0x3 => .ok .pop
  | 0x4 => .ok (.peek (aField cw ++ bField cw))
  | 0x5 => .ok .reset
  | 0x6 => .ok .count
  | 0x7 => .ok .isEmpty
  | 0x8 => .ok .isFull
  | 0x9 => .ok .dstep
  | 0xA => .ok (.build (aField cw) (bField cw))
  | 0xB => .ok (.checksum (unpackFrame fin))
  | _ => .error (.reservedOpcode (opField cw))

/-- An outbound run is FRAME_TX when it is the pattern of R81 for its own bytes 3 and 8. -/
def decodeOutbound (f : Frame) : Except DecodeError Instr :=
  if f = builtPattern f[3] f[8] then .ok (.frameTx f[3] f[8]) else .error (.notABuiltFrame f)

/-- An inbound run is FRAME_RX when it has the pattern's doubled header (R82 (a)); conditions (b) and (c) are
tested by the parser (R144). -/
def decodeInbound (f : Frame) : Except DecodeError Instr :=
  if f.hasHeader then .ok (.frameRx f) else .error (.noHeader f)

/-- The decoder, total on all words. -/
def decode : Transaction → Except DecodeError Instr
  | .port cw fin => decodeCommand cw fin
  | .wire .outbound w => decodeOutbound (unpackFrame w)
  | .wire .inbound w => decodeInbound (unpackFrame w)

/-! ## Encoding -/

/-- The words of an instruction: the command words of R93, with zeros in ignored fields and on an ignored `fin`
(R90), and the wire frames of R81 and R82. -/
def encode : Instr → Transaction
  | .push e => .port (commandWord 0x1#4 0 e) 0
  | .pushc e => .port (commandWord 0x2#4 0 e) 0
  | .pop => .port (commandWord 0x3#4 0 0) 0
  | .peek idx => .port (commandWord 0x4#4 (idx.extractLsb' 8 8) (idx.extractLsb' 0 8)) 0
  | .reset => .port (commandWord 0x5#4 0 0) 0
  | .count => .port (commandWord 0x6#4 0 0) 0
  | .isEmpty => .port (commandWord 0x7#4 0 0) 0
  | .isFull => .port (commandWord 0x8#4 0 0) 0
  | .dstep => .port (commandWord 0x9#4 0 0) 0
  | .build a c => .port (commandWord 0xA#4 a c) 0
  | .checksum f => .port (commandWord 0xB#4 0 0) (packFrame f)
  | .frameTx a c => .wire .outbound (packFrame (builtPattern a c))
  | .frameRx f => .wire .inbound (packFrame f)

/-! ## The table's words -/

/-- The bytes of a frame port in the opposite order. -/
def reverseFrame (w : FrameWord) : FrameWord :=
  packFrame (Vector.ofFn fun i => byteAt (unpackFrame w) (12 - i.val))

/-- A table word of a wire-frame row, packed as on `fin` (entry 16): the table writes byte 0 leftmost, so that, read as
one number, it stands in the high bits; a word whose high bytes are no header is read with byte 0 in the low bits. -/
def tableFrame (w : Nat) : FrameWord :=
  let word := BitVec.ofNat 104 w
  if (unpackFrame (reverseFrame word)).hasHeader then reverseFrame word else word

/-- The transaction whose words are the table's `w` of `nbits` bits (entry 16). Up to 24 bits it is a command
word with zeros on `fin`. A run of 104 bits is outbound when it is the pattern of R81, and inbound otherwise. -/
def tableTransaction (nbits w : Nat) : Transaction :=
  if nbits ≤ 24 then .port (BitVec.ofNat 20 w) 0
  else
    match decodeOutbound (unpackFrame (tableFrame w)) with
    | .ok _ => .wire .outbound (tableFrame w)
    | .error _ => .wire .inbound (tableFrame w)

/-- The instruction read from a table word: none where the word has bits beyond its row's width or is refused. -/
def decodeTableWord (nbits w : Nat) : Option Instr :=
  if w < (if nbits ≤ 24 then 2 ^ 20 else 2 ^ 104) then (decode (tableTransaction nbits w)).toOption
  else none

end Sys2Proof
end

