-- ==== Sys2Proof/Machine/State.lean ====
section
/-! DEFINITION. The state as plain data (10_state.md R20, 00_scope.md R13), the ports (30_encoding.md R84), the two agents' pending requests (00_scope.md R12), and the state after hardware reset (10_state.md R36). -/

namespace Sys2Proof.Machine

/-- The two agents of R12. -/
inductive Agent where
  | producer
  | consumer
deriving DecidableEq, Repr

/-- What an agent asks for next. -/
inductive Request where
  /-- One transaction on the ports (R84), or a wire frame handed over whole (entries 13, 14). -/
  | txn (t : Transaction)
  /-- The byte source yields a byte: the producer inserts it with the command its policy names (R12, R223). -/
  | arrival (b : Byte)
  /-- The pseudo-command DRAIN (R94, R150). -/
  | drain
deriving DecidableEq, Repr

/-- The response record of R88. A field the command leaves unspecified is absent (R11, entry 10). -/
structure Response where
  ok    : Bool
  val   : Option (BitVec 16)
  rv    : Bool
  raddr : Option Byte
  rstat : Option Byte
  fout  : Option FrameWord
deriving DecidableEq, Repr

/-- A byte store (R50): the cells that have been written, as (index, byte) pairs with the indices strictly rising.
A cell that is not listed holds no value (R36, entry 7). -/
abbrev Memory := List Host.Cell

/-- The canonical form: indices strictly rising. No listed entry can equal what an unlisted cell holds, which is no
value. -/
abbrev Memory.wf (m : Memory) : Prop := m.Pairwise fun x y => x.1 < y.1

/-- No step ends in a fault: "No condition in this core is fatal; there are no exceptions/panics" (R190), and
nothing in this hardware is a fault or stuck (93_implementation_defined.md). The type has no constructor. -/
inductive Fault : Type
deriving DecidableEq, Repr

/-- Why a step has no meaning. -/
inductive Refusal where
  /-- Raised by an arm of exec whose instruction has no meaning yet; safe. No arm raises it now. -/
  | notModelled (mnemonic : String)
  /-- Raised by step when an agent hands over, as an outbound wire frame, a run that is not the pattern of R81: the
  block emits no such frame, so there is no instruction to run (entry 17); safe. -/
  | notABuiltFrame
deriving DecidableEq, Repr

/-- The machine. -/
structure State where
  /-- The parameters C, PUSH_POLICY and STRAY_RESTART (R6): constants. -/
  params      : Params
  /-- The read index (R21). -/
  rd          : Nat
  /-- The write index (R22). -/
  wr          : Nat
  /-- The occupied count (R23). -/
  count       : Nat
  /-- The pop output register DOUT (R24). -/
  dout        : Byte
  /-- The parser cursor (R25). -/
  cur         : Fin 13
  /-- The ring storage RB (R30). -/
  rb          : Memory
  /-- The frame buffer FB (R31). -/
  fb          : Memory
  /-- The model's own: a POP has succeeded since the last hardware reset (entry 6). -/
  doutDefined : Bool
  /-- The model's own: how many hardware resets have been served (entry 6). -/
  resets      : Nat
  /-- The reset input: an assertion waits to be served (R84, R220, entry 9). -/
  rst         : Bool
  /-- What the producer has still to issue, in its own order (R12, R58). -/
  producer    : List Request
  /-- What the consumer has still to issue, in its own order (R12, R58). -/
  consumer    : List Request
  /-- The model's own: how many requests have been served (entry 1). -/
  turn        : Nat
  /-- The model's own: the agent served last, to whom the response belongs (entry 11). -/
  served      : Option Agent
  /-- The response ports: the response of the last command served, if any (R84, R88, entry 11). -/
  resp        : Option Response
deriving DecidableEq, Repr

/-- The machine right after hardware reset (R36, R220): `rd`, `wr`, `count` and `cur` are 0, and no cell of RB or FB
holds a value. The byte in `dout` is a DESIGN CHOICE (entry 5) that no read shows (entry 6); the parameters are
entry 3; nothing is pending (entry 2). -/
def State.reset : State where
  params      := Params.atReset
  rd          := 0
  wr          := 0
  count       := 0
  dout        := 0
  cur         := 0
  rb          := []
  fb          := []
  doutDefined := false
  resets      := 0
  rst         := false
  producer    := []
  consumer    := []
  turn        := 0
  served      := none
  resp        := none

/-- The outcome of a step of this machine. -/
abbrev Outcome := Host.Outcome State Fault Refusal

end Sys2Proof.Machine
end

