-- ==== Sys2Proof/Machine/Operands.lean ====
section
/-! DEFINITION. The addressing forms of 20_memory.md R54 and the index arithmetic of 40_ring_buffer.md R118. -/

namespace Sys2Proof.Machine

/-- The capacity `C` of a state (R6). -/
def State.cap (s : State) : Nat := s.params.capacity.val

/-- Add 1 modulo `C`: the post-increment of `rd` and `wr` (R54 (a) and (b), R118). -/
def State.advance (s : State) (i : Nat) : Nat := (i + 1) % s.cap

/-- The RB index of the `idx`-th oldest element (R54 (c), R113). -/
def State.peekIndex (s : State) (idx : Nat) : Nat := (s.rd + idx) % s.cap

end Sys2Proof.Machine
end

