-- ==== Sys2Proof/Machine/Flags.lean ====
section
/-! DEFINITION. The derived conditions of 10_state.md R28, which no register stores, and the 0 or 1 that ISEMPTY and ISFULL return for them (30_encoding.md R88). -/

namespace Sys2Proof.Machine

/-- `empty`: `count == 0` (R28). -/
def State.isEmpty (s : State) : Bool := s.count == 0

/-- `full`: `count == C` (R28). -/
def State.isFull (s : State) : Bool := s.count == s.cap

/-- A condition as a 16-bit query value (R88, R116, R117). -/
def flagValue (b : Bool) : BitVec 16 := if b then 1 else 0

end Sys2Proof.Machine
end

