-- ==== Sys2Proof/Machine/Ops.lean ====
section
/-! DEFINITION. The named operations over the byte stores, the registers and the response (00_scope.md R10), the two ring operations that several commands share, and hardware reset (70_reset_and_hazards.md R220). The block has no exception (60_exceptions.md R190, R193, R194), so there is no operation for taking one or returning from one. -/

namespace Sys2Proof.Machine

/-! ## Byte stores -/

/-- The byte a cell holds, if it has been written. -/
def Memory.lookup : Memory → Nat → Option Byte
  | [], _ => none
  | (k, v) :: m, a => if k = a then some v else Memory.lookup m a

/-- Write a byte to a cell, keeping the canonical form. -/
def Memory.write : Memory → Nat → Byte → Memory
  | [], a, v => [(a, v)]
  | (k, w) :: m, a, v =>
    if a < k then (a, v) :: (k, w) :: m
    else if a = k then (a, v) :: m
    else (k, w) :: Memory.write m a v

/-! ## Reads -/

/-- `MemRead(RB, a, 1)` (R10). A cell never written reads as a free byte (entry 7). -/
def State.readRb (s : State) (a : Nat) : Byte := (Memory.lookup s.rb a).getD (Config.unwrittenRb a)

/-- `MemRead(FB, i, 1)` (R10). A cell never written reads as a free byte (entry 7). -/
def State.readFb (s : State) (i : Nat) : Byte := (Memory.lookup s.fb i).getD (Config.unwrittenFb i)

/-- `FB[0..=12]` as a frame (R144). -/
def State.frame (s : State) : Frame := Vector.ofFn fun i => s.readFb i.val

/-- Register DOUT as a command or the port `dout` reads it (R24): unspecified, but stable, until the first
successful POP after a hardware reset (R36, entry 6). -/
def State.readDout (s : State) : Byte :=
  if s.doutDefined then s.dout else Config.unspecifiedDout s.resets

/-! ## Writes -/

/-- `rd <- v`. -/
def State.setRd (s : State) (v : Nat) : State := { s with rd := v }

/-- `wr <- v`. -/
def State.setWr (s : State) (v : Nat) : State := { s with wr := v }

/-- `count <- v`. -/
def State.setCount (s : State) (v : Nat) : State := { s with count := v }

/-- `cur <- v`. -/
def State.setCur (s : State) (v : Fin 13) : State := { s with cur := v }

/-- `DOUT <- v`, by a successful POP: from then on DOUT is defined (R24, R36). -/
def State.setDout (s : State) (v : Byte) : State := { s with dout := v, doutDefined := true }

/-- `MemWrite(RB, a, 1, v)` (R10). -/
def State.writeRb (s : State) (a : Nat) (v : Byte) : State := { s with rb := Memory.write s.rb a v }

/-- `MemWrite(FB, i, 1, v)` (R10). -/
def State.writeFb (s : State) (i : Nat) (v : Byte) : State := { s with fb := Memory.write s.fb i v }

/-! ## Responses (R88) -/

/-- Put a response on the response ports. -/
def State.respond (s : State) (r : Response) : State := { s with resp := some r }

/-- A response that defines `ok` only; `rv` is 0 for every command but a DSTEP that delivers (R88). -/
def Response.flag (ok : Bool) : Response :=
  { ok := ok, val := none, rv := false, raddr := none, rstat := none, fout := none }

/-- A response that defines `ok` and `val`. -/
def Response.value (ok : Bool) (v : BitVec 16) : Response :=
  { ok := ok, val := some v, rv := false, raddr := none, rstat := none, fout := none }

/-- The response that delivers a parser result, `rv = 1` (R88, R151). -/
def Response.result (address status : Byte) : Response :=
  { ok := true, val := none, rv := true, raddr := some address, rstat := some status, fout := none }

/-- The response of BUILD: the frame on `fout` (R88). -/
def Response.frame (f : Frame) : Response :=
  { ok := true, val := none, rv := false, raddr := none, rstat := none, fout := some (packFrame f) }

/-! ## The ring operations shared by several commands -/

/-- Store at the write index, then advance it (R54 (a)): the body of a successful PUSH (R110) and the second half of
PUSHC (R111). -/
def State.insert (s : State) (e : Byte) : State :=
  ((s.writeRb s.wr e).setWr (s.advance s.wr)).setCount (s.count + 1)

/-- Advance the read index past the oldest element (R54 (b)): in POP (R112), in DSTEP (R147), and as the discard of
PUSHC (R111). -/
def State.removeOldest (s : State) : State :=
  (s.setRd (s.advance s.rd)).setCount (s.count - 1)

/-! ## Hardware reset -/

/-- Hardware reset (R220, R221): `rd`, `wr`, `count` and `cur` become 0; RB, FB and DOUT are not written, and what
DOUT shows is unspecified until the next successful POP (R36). The pending assertion is served, and no response stands
on the ports (entries 8 and 9). -/
def State.hardwareReset (s : State) : State :=
  { s with
    rd := 0, wr := 0, count := 0, cur := 0
    doutDefined := false, resets := s.resets + 1
    rst := false, served := none, resp := none }

end Sys2Proof.Machine
end

