-- ==== Sys2Proof/Machine/Checksum.lean ====
section
/-! DEFINITION. The Checksum Function `Chk`, defined once and used by the parser, the builder and CHECKSUM (43_checksum.md R180 to R186), and the command CHECKSUM (R183). -/

namespace Sys2Proof.Machine

/-- The accumulator of R180 over `pos` in `2..=n`, from 0x00; the range is empty when `n < 2` (R181). -/
def xorWindow (f : Frame) (n : Nat) : Byte :=
  (List.range' Config.OFF_LEN (n - 1)).foldl (fun acc pos => acc ^^^ byteAt f pos) 0x00#8

/-- `Chk` (R180): `none` is `oob = 1`, whose `crc` is unspecified and has no value (R182); `some crc` is `oob = 0`. -/
def chk (f : Frame) : Option Byte :=
  let n := (byteAt f Config.OFF_LEN).toNat
  if 12 < n then none else some (xorWindow f n)

/-- CHECKSUM (R183): the checksum of the supplied frame; it reads and writes no state of the block. -/
def execChecksum (frame : Frame) (s : State) : Outcome :=
  match chk frame with
  | none => .next (s.respond (.flag false))
  | some crc => .next (s.respond (.value true (crc.setWidth 16)))

end Sys2Proof.Machine
end

