-- ==== Sys2Proof/Machine/Parser.lean ====
section
/-! DEFINITION. The Frame Parser (41_frame_parser.md): the byte step ParseByte (R140 to R144), and the command DSTEP (R147). -/

namespace Sys2Proof.Machine

open Config

/-- A parser result `(address, status)` (R144). -/
abbrev Result := Byte × Byte

/-- Validation and extraction on a completed frame (R144): invalid when the window leaves the frame (case 1) or the
checksum differs from byte 10 (case 2); otherwise the result is bytes 6 and 7 (case 3). Nothing else is checked
(R145). -/
def validate (f : Frame) : Option Result :=
  match chk f with
  | none => none
  | some crc => if crc = byteAt f OFF_CHK then some (byteAt f OFF_ADDR, byteAt f OFF_STATUS) else none

/-- The byte step ParseByte (R140), by the cases of R141, R142 and R143. -/
def parseByte (b : Byte) (s : State) : State × Option Result :=
  if s.cur = 0 then
    if b = HEAD then ((s.writeFb 0 b).setCur 1, none) else (s, none)
  else if s.cur = 1 then
    if b = HEAD then ((s.writeFb 1 b).setCur 2, none)
    else if s.params.strayRestart then (s.setCur 0, none)
    else (s, none)
  else
    let stored := s.writeFb s.cur.val b
    if h : s.cur.val < 12 then (stored.setCur ⟨s.cur.val + 1, by omega⟩, none)
    else (stored.setCur 0, validate stored.frame)

/-- Bytes fed to ParseByte one after the other; the results are in the order their frames completed (R149, R151). -/
def feed : List Byte → State → State × List Result
  | [], s => (s, [])
  | b :: bs, s =>
    let (s₁, r) := parseByte b s
    let (s₂, rs) := feed bs s₁
    (s₂, r.toList ++ rs)

/-- The response of a DSTEP that consumed a byte (R88, R147). -/
def deliver : Option Result → Response
  | none => .flag true
  | some (address, status) => .result address status

/-- DSTEP (R147): pop one byte, which does not go to DOUT, and advance the parser by it; on an empty ring nothing
changes. -/
def execDstep (s : State) : Outcome :=
  if s.isEmpty then .next (s.respond (.flag false))
  else
    let (t, r) := parseByte (s.readRb s.rd) s.removeOldest
    .next (t.respond (deliver r))

end Sys2Proof.Machine
end

