-- ==== Sys2Proof/Machine/Ring.lean ====
section
/-! DEFINITION. The Ring Buffer commands PUSH, PUSHC, POP, PEEK, RESET, COUNT, ISEMPTY, ISFULL (40_ring_buffer.md R110 to R117). -/

namespace Sys2Proof.Machine

/-- PUSH (R110): insert if not full; on a full buffer nothing changes. -/
def execPush (element : Byte) (s : State) : Outcome :=
  if s.isFull then .next (s.respond (.flag false))
  else .next ((s.insert element).respond (.flag true))

/-- PUSHC (R111): insert always, first discarding the oldest element of a full buffer. -/
def execPushc (element : Byte) (s : State) : Outcome :=
  let s := if s.isFull then s.removeOldest else s
  .next ((s.insert element).respond (.flag true))

/-- POP (R112): remove the oldest element into DOUT; on an empty buffer nothing changes. `val` is DOUT after the
command (R88). -/
def execPop (s : State) : Outcome :=
  if s.isEmpty then .next (s.respond (.value false (s.readDout.setWidth 16)))
  else
    let s := (s.setDout (s.readRb s.rd)).removeOldest
    .next (s.respond (.value true (s.readDout.setWidth 16)))

/-- PEEK (R113): the `idx`-th oldest element, if there is one; no state is written. -/
def execPeek (idx : BitVec 16) (s : State) : Outcome :=
  if s.count ≤ idx.toNat then .next (s.respond (.flag false))
  else .next (s.respond (.value true ((s.readRb (s.peekIndex idx.toNat)).setWidth 16)))

/-- RESET (R114): empty the ring buffer; RB, DOUT, `cur` and FB keep what they hold. -/
def execReset (s : State) : Outcome :=
  .next ((((s.setCount 0).setRd 0).setWr 0).respond (.flag true))

/-- COUNT (R115). -/
def execCount (s : State) : Outcome :=
  .next (s.respond (.value true (BitVec.ofNat 16 s.count)))

/-- ISEMPTY (R116). -/
def execIsEmpty (s : State) : Outcome :=
  .next (s.respond (.value true (flagValue s.isEmpty)))

/-- ISFULL (R117). -/
def execIsFull (s : State) : Outcome :=
  .next (s.respond (.value true (flagValue s.isFull)))

end Sys2Proof.Machine
end

