-- ==== Sys2Proof/Machine/Receive.lean ====
section
/-! DEFINITION. Bytes taken off the line by commands of the block (00_scope.md R12, 41_frame_parser.md R147): the row FRAME_RX (30_encoding.md R82, R144), and runs that are noise. Nothing here writes the block but PUSH, PUSHC and DSTEP. -/

namespace Sys2Proof.Machine

/-- One outcome, then what follows on its next state. -/
def andThen (o : Outcome) (k : State → Outcome) : Outcome :=
  match o with
  | .next t => k t
  | .fault r => .fault r
  | .refused r => .refused r

/-- The insertion of an arriving byte, by the command PUSH_POLICY names (R6, R12). -/
def execInsert (b : Byte) (s : State) : Outcome :=
  match s.params.pushPolicy with
  | .dropNewest => execPush b s
  | .dropOldest => execPushc b s

/-- One byte off the line: inserted as it arrives (R12), and one DSTEP after it (R147). -/
def receiveByte (b : Byte) (s : State) : Outcome := andThen (execInsert b s) execDstep

/-- DESIGN CHOICE (entry 14): of the responses of a run's DSTEP commands the one that delivered a result stands, whatever
comes after it; with none, the last. -/
def keepResult : Option Response → State → State
  | none, s => s
  | some r, s => if r.rv then s.respond r else s

/-- A run of bytes off the line, one after the other. DESIGN CHOICE (entry 14): the consumer issues one DSTEP after each
byte, and the response is the one that `keepResult` names, its `ok` included. -/
def receive : List Byte → State → Outcome
  | [], s => .next s
  | b :: bs, s =>
    andThen (receiveByte b s) fun t => andThen (receive bs t) fun u => .next (keepResult t.resp u)

/-- FRAME_RX (R82, with the semantics of R144; entry 14): the 13 bytes of the run, received. With the ring empty and
`cur = 0` the run is the completed frame of R144: FB keeps its 13 bytes, `cur` is 0 and the result is the frame's, if it
is valid. -/
def execFrameRx (frame : Frame) (s : State) : Outcome := receive frame.toList s

end Sys2Proof.Machine
end

