-- ==== Sys2Proof/Machine/Agents.lean ====
section
/-! DEFINITION. The agents outside the block (00_scope.md R12): which request is served next (20_memory.md R58), the words it presents, what is left of it afterwards, and the pseudo-commands of 30_encoding.md R94. -/

namespace Sys2Proof.Machine

/-! ## Queues -/

/-- An agent's pending requests, in the order the agent issues them. -/
def State.queue (s : State) : Agent → List Request
  | .producer => s.producer
  | .consumer => s.consumer

/-- Replace an agent's pending requests. -/
def State.setQueue (s : State) : Agent → List Request → State
  | .producer, q => { s with producer := q }
  | .consumer, q => { s with consumer := q }

/-- The agent whose request takes effect next. When both have one the order is free (R58, entry 1). -/
def State.nextAgent (s : State) : Option Agent :=
  match s.producer, s.consumer with
  | [], [] => none
  | _ :: _, [] => some .producer
  | [], _ :: _ => some .consumer
  | _ :: _, _ :: _ => some (if Config.producerFirst s.turn then .producer else .consumer)

/-! ## Requests as commands -/

/-- The insertion command of a policy (R6, R12, D18). -/
def insertCommand (p : PushPolicy) (b : Byte) : Instr :=
  match p with
  | .dropNewest => .push b
  | .dropOldest => .pushc b

/-- The words a request presents: DRAIN presents a DSTEP (R150), an arriving byte the policy's insertion command
(R12). -/
def Request.words (p : Params) : Request → Transaction
  | .txn t => t
  | .arrival b => encode (insertCommand p.pushPolicy b)
  | .drain => encode .dstep

/-- The pseudo-command PUSHF (R94). -/
def pushF (bs : List Byte) : List Request := bs.map fun b => .txn (encode (.push b))

/-- The pseudo-command PUSHCF (R94). -/
def pushCF (bs : List Byte) : List Request := bs.map fun b => .txn (encode (.pushc b))

/-- Whether a DRAIN whose DSTEP answered `r` issues another: unless the ring was empty or a result was delivered
(R150). -/
def drainContinues : Option Response → Bool
  | some r => r.ok && !r.rv
  | none => false

/-- What is left of an agent's queue once its first request has been served with the response in `s`: a DRAIN that
continues stays at the front (R150), every other request is gone. -/
def remaining (q : Request) (rest : List Request) (s : State) : List Request :=
  match q with
  | .drain => if drainContinues s.resp then q :: rest else rest
  | .txn _ => rest
  | .arrival _ => rest

/-- Book a served request: the agent's queue, whose response it is, and the count of requests served. -/
def retire (a : Agent) (q : Request) (rest : List Request) (s : State) : State :=
  { s.setQueue a (remaining q rest s) with served := some a, turn := s.turn + 1 }

/-- A meaning's outcome, with the served request booked on a next state. -/
def retireOutcome (a : Agent) (q : Request) (rest : List Request) : Outcome → Outcome
  | .next t => .next (retire a q rest t)
  | .fault r => .fault r
  | .refused r => .refused r

/-! ## Words that are no instruction -/

/-- A reserved opcode: no state changes, `ok = 0`, `rv = 0` (R89, entry 12). -/
def execReserved (s : State) : Outcome := .next (s.respond (.flag false))

/-- What the machine does with words the decoder refuses. An inbound run without a header is noise, and its
bytes are received like any others (R12, R140; entry 17). -/
def execUndecoded (e : DecodeError) (s : State) : Outcome :=
  match e with
  | .reservedOpcode _ => execReserved s
  | .noHeader f => receive f.toList s
  | .notABuiltFrame _ => .refused .notABuiltFrame

/-! ## What a step does next -/

/-- The next thing to do. -/
inductive Work where
  /-- No request is pending. -/
  | idle
  /-- `rst` is asserted. -/
  | hardwareReset
  /-- Serve the first request `q` of an agent, with `rest` behind it. -/
  | serve (a : Agent) (q : Request) (rest : List Request)
deriving DecidableEq, Repr

/-- Reset falls between two commands and is served first (R220, entry 9); then the next agent's first request. -/
def State.fetch (s : State) : Work :=
  if s.rst then .hardwareReset
  else
    match s.nextAgent with
    | none => .idle
    | some a =>
      match s.queue a with
      | [] => .idle
      | q :: rest => .serve a q rest

/-- A state whose very next step serves the words `t`: no reset is pending, the producer has nothing to issue, and `t`
is the consumer's first request (entry 2). -/
def State.present (s : State) (t : Transaction) : State :=
  { s with rst := false, producer := [], consumer := .txn t :: s.consumer }

end Sys2Proof.Machine
end

