-- ==== Sys2Proof/Machine/Builder.lean ====
section
/-! DEFINITION. The Frame Builder (42_frame_builder.md R170 to R174): the command BUILD, and the wire frame it emits (30_encoding.md R81). -/

namespace Sys2Proof.Machine

open Config

/-- The frame of R170 before its checksum is inserted: 0x00 stands at index 10. -/
def frameBody (address command : Byte) : Frame :=
  #v[HEAD, HEAD, LEN, address, CTL4, CTL5, address, ZERO7, command, ZERO9, 0x00, TAIL, TAIL]

/-- The frame of R170, its checksum computed by `Chk`. The window of `frameBody` lies inside the frame, since
`f[2] = 9`, so the `none` case never arises. -/
def buildFrame (address command : Byte) : Frame :=
  let f := frameBody address command
  match chk f with
  | some crc => f.set OFF_CHK crc
  | none => f

/-- BUILD (R170): the frame on `fout`; no state of the block is read or written. -/
def execBuild (address command : Byte) (s : State) : Outcome :=
  .next (s.respond (.frame (buildFrame address command)))

/-- FRAME_TX (R81, with the semantics of R170; entry 13): the emission of the built frame, the 13 bytes on `fout` for
the byte sink; no state of the block is read or written (R174). -/
def execFrameTx (address command : Byte) (s : State) : Outcome :=
  .next (s.respond (.frame (buildFrame address command)))

end Sys2Proof.Machine
end

