-- ==== Sys2Proof/Machine/Dispatch.lean ====
section
/-! DEFINITION. Dispatch: one arm per row of the opcode table. -/

namespace Sys2Proof.Machine

def exec (i : Instr) (s : State) : Host.Outcome State Fault Refusal :=
  match i with
  | .push element => Sys2Proof.Machine.execPush element s
  | .pushc element => Sys2Proof.Machine.execPushc element s
  | .pop => Sys2Proof.Machine.execPop s
  | .peek idx => Sys2Proof.Machine.execPeek idx s
  | .reset => Sys2Proof.Machine.execReset s
  | .count => Sys2Proof.Machine.execCount s
  | .isEmpty => Sys2Proof.Machine.execIsEmpty s
  | .isFull => Sys2Proof.Machine.execIsFull s
  | .dstep => Sys2Proof.Machine.execDstep s
  | .build address command => Sys2Proof.Machine.execBuild address command s
  | .checksum frame => Sys2Proof.Machine.execChecksum frame s
  | .frameTx address command => Sys2Proof.Machine.execFrameTx address command s
  | .frameRx frame => Sys2Proof.Machine.execFrameRx frame s

end Sys2Proof.Machine
end

