-- ==== Sys2Proof/Machine/Serve.lean ====
section
/-! DEFINITION. Serving one request: the instruction its words decode to, or what the machine does with words that are none, and then the booking of the request. -/

namespace Sys2Proof.Machine

/-- The effect of the words on the ports: the decoded instruction, or the effect of R89 and entry 17. -/
def runWords (t : Transaction) (s : State) : Outcome :=
  match decode t with
  | .ok i => exec i s
  | .error e => execUndecoded e s

/-- Serve the first request `q` of an agent, with `rest` behind it, as one atomic transition (R58). -/
def serve (a : Agent) (q : Request) (rest : List Request) (s : State) : Outcome :=
  retireOutcome a q rest (runWords (q.words s.params) s)

end Sys2Proof.Machine
end

