-- ==== Sys2Proof/Machine/Step.lean ====
section
/-! DEFINITION. One step: hardware reset, or one request of one agent as one atomic transition (20_memory.md R58), or nothing (60_exceptions.md R202). -/

namespace Sys2Proof.Machine

/-- One step of the machine. -/
def step (s : State) : Host.Outcome State Fault Refusal :=
  match s.fetch with
  | .idle => .next s
  | .hardwareReset => .next s.hardwareReset
  | .serve a q rest => serve a q rest s

/-- The state with a table word where the step takes its next command from (entries 2 and 16). -/
def State.withFetchWord (s : State) (nbits w : Nat) : State := s.present (tableTransaction nbits w)

end Sys2Proof.Machine
end

