-- ==== Sys2Proof/Safety.lean ====
section
/-! DEFINITION. What counts as a safe state and a safe run, and the terms the statements use: the invariants of 10_state.md R32 to R35, the held elements (R30), the frames the parser accepts (30_encoding.md R82), and what enters and leaves the ring along a run (20_memory.md R57). -/

namespace Sys2Proof.Machine

open Config

/-- The held elements, oldest first (R30). -/
def State.held (s : State) : List Byte := (List.range s.count).map fun k => s.readRb (s.peekIndex k)

/-- The invariants of R32 to R35, true after hardware reset and after every command, with the form of the byte
stores and the fact that every live cell has been written (R34). -/
structure State.Inv (s : State) : Prop where
  /-- I1 (R32). -/
  count_le : s.count ≤ s.cap
  /-- I2 (R32). -/
  rd_lt : s.rd < s.cap
  /-- I2 (R32). -/
  wr_lt : s.wr < s.cap
  /-- I4 (R33). -/
  wr_eq : s.wr = (s.rd + s.count) % s.cap
  /-- P2 (R35). -/
  header0 : 1 ≤ s.cur.val → Memory.lookup s.fb 0 = some HEAD
  /-- P3 (R35). -/
  header1 : 2 ≤ s.cur.val → Memory.lookup s.fb 1 = some HEAD
  /-- The ring storage is in canonical form. -/
  rb_wf : Memory.wf s.rb
  /-- The frame buffer is in canonical form. -/
  fb_wf : Memory.wf s.fb
  /-- RB has the indices 0..=C-1 (R50). -/
  rb_bound : ∀ c ∈ s.rb, c.1 < s.cap
  /-- FB has the indices 0..=12 (R50). -/
  fb_bound : ∀ c ∈ s.fb, c.1 < FRAME_LEN
  /-- Every index that holds a live element has been written (R34). -/
  live_written : ∀ k < s.count, (Memory.lookup s.rb (s.peekIndex k)).isSome
  /-- Every index below the cursor has been written (R31, R34). -/
  body_written : ∀ i < s.cur.val, (Memory.lookup s.fb i).isSome

/-! ## Frames, as 13 bytes by index -/

/-- The XOR of `f[2..=n]`, 0x00 when the range is empty (R180, R181). -/
def windowXor (f : Nat → Byte) : Nat → Byte
  | 0 => 0x00#8
  | 1 => 0x00#8
  | n + 2 => windowXor f (n + 1) ^^^ f (n + 2)

/-- Conditions (b) and (c) of R82: the window lies inside the frame, and its XOR is byte 10. -/
abbrev Accepts (f : Nat → Byte) : Prop := (f 2).toNat ≤ 12 ∧ windowXor f (f 2).toNat = f 10

/-- The runs the parser accepts (R82), the doubled header included. -/
abbrev AcceptedFrame (f : Frame) : Prop := f[0] = HEAD ∧ f[1] = HEAD ∧ Accepts (byteAt f)

/-- FB as the step that stores `b` at index 12 leaves it (R143). -/
def State.completed (s : State) (b : Byte) : Nat → Byte := fun i => if i = 12 then b else s.readFb i

/-- The result of a frame (R144 case 3). -/
def frameResult (f : Frame) : Result := (f[6], f[7])

/-! ## Runs of commands -/

/-- Commands executed one after the other, with no agent and no queue. -/
def runInstrs : List Instr → State → Outcome
  | [], s => .next s
  | i :: is, s =>
    match exec i s with
    | .next t => runInstrs is t
    | .fault r => .fault r
    | .refused r => .refused r

/-- What the parser has to consume when `bs` arrive, oldest first: the held elements and then `bs`; on a full buffer the
first arriving byte is lost under DROP_NEWEST (R110), and the oldest element under DROP_OLDEST (R111). -/
def State.backlog (s : State) (bs : List Byte) : List Byte :=
  if s.held.length < s.cap then s.held ++ bs
  else
    match s.params.pushPolicy with
    | .dropNewest => s.held ++ bs.drop 1
    | .dropOldest => s.held.drop 1 ++ bs

/-- The commands by which a run of bytes is taken off the line (R12, R147; entry 14). -/
def receiveCommands (p : Params) (bs : List Byte) : List Instr :=
  bs.flatMap fun b => [insertCommand p.pushPolicy b, .dstep]

/-- The bytes a command inserts (R57): a PUSH that does not fail, and every PUSHC; the bytes of a FRAME_RX run, but for the
first when the buffer is full and the policy is DROP_NEWEST (entry 14). -/
def enters (i : Instr) (s : State) : List Byte :=
  match i with
  | .push e => if s.held.length < s.cap then [e] else []
  | .pushc e => [e]
  | .frameRx f => if s.held.length = s.cap ∧ s.params.pushPolicy = .dropNewest then f.toList.drop 1 else f.toList
  | .pop | .peek _ | .reset | .count | .isEmpty | .isFull | .dstep => []
  | .build _ _ | .checksum _ | .frameTx _ _ => []

/-- The bytes a command takes out of the ring (R57): the oldest by POP and DSTEP, the oldest by a PUSHC on a full
buffer, all of them by RESET; by a FRAME_RX run the oldest thirteen of its backlog, after the oldest element where a
PUSHC of the run found the buffer full (entry 14). -/
def leaves (i : Instr) (s : State) : List Byte :=
  match i with
  | .pop | .dstep => s.held.take 1
  | .pushc _ => if s.held.length = s.cap then s.held.take 1 else []
  | .reset => s.held
  | .frameRx f =>
    (if s.held.length = s.cap ∧ s.params.pushPolicy = .dropOldest then s.held.take 1 else []) ++
      (s.backlog f.toList).take 13
  | .push _ | .peek _ | .count | .isEmpty | .isFull => []
  | .build _ _ | .checksum _ | .frameTx _ _ => []

/-- What a list of commands does to the ring from a state: the bytes that enter, the bytes that leave, each in order,
and the elements held at the end. -/
def ringTrace : List Instr → State → List Byte × List Byte × List Byte
  | [], s => ([], [], s.held)
  | i :: is, s =>
    match exec i s with
    | .next t =>
      let (ins, outs, final) := ringTrace is t
      (enters i s ++ ins, leaves i s ++ outs, final)
    | .fault _ => (enters i s, leaves i s, s.held)
    | .refused _ => (enters i s, leaves i s, s.held)

/-! ## What can be observed -/

/-- Two states that agree on everything but stale bytes (R34): the parameters, the registers, DOUT as it reads, the
held elements, and FB below the cursor. -/
structure SameLive (s t : State) : Prop where
  params  : t.params = s.params
  rd      : t.rd = s.rd
  wr      : t.wr = s.wr
  count   : t.count = s.count
  cur     : t.cur = s.cur
  readDout : t.readDout = s.readDout
  held    : t.held = s.held
  body    : ∀ i < s.cur.val, t.readFb i = s.readFb i

/-- Commands that read and write no state of the block, or only read it (R53, R170, R183). -/
def readOnly : Instr → Bool
  | .peek _ | .count | .isEmpty | .isFull | .build _ _ | .checksum _ | .frameTx _ _ => true
  | .push _ | .pushc _ | .pop | .reset | .dstep | .frameRx _ => false

/-- A request a step can serve: every one but an outbound wire frame that is not what BUILD emits (R81). -/
def Request.Servable : Request → Prop
  | .txn (.wire .outbound w) => ∃ a c, unpackFrame w = builtPattern a c
  | .txn (.wire .inbound _) => True
  | .txn (.port _ _) => True
  | .arrival _ => True
  | .drain => True

end Sys2Proof.Machine
end

