-- ==== Sys2Proof/Certificates/Slice0/Obligations.lean ====
section
/-! DEFINITION. The statements for the provers, from the numbered rules of spec/. A response is written out as ⟨ok, val, rv, raddr, rstat, fout⟩, with none for a field the rules leave unspecified (30_encoding.md R88, 00_scope.md R11). -/

open Sys2Proof Sys2Proof.Machine Sys2Proof.Config

/-! ## Encoding -/

/-- R85, R86, R87: a command word `op ++ a ++ b` decodes by its opcode, with the operand fields of R87, whatever stands
in the ignored fields (R90). -/
def Obligations.DecodeFollowsTheOpcodeMap : Prop :=
  ∀ (a b : Byte) (fin : FrameWord),
    decode (.port (0x1#4 ++ a ++ b) fin) = .ok (.push b) ∧
    decode (.port (0x2#4 ++ a ++ b) fin) = .ok (.pushc b) ∧
    decode (.port (0x3#4 ++ a ++ b) fin) = .ok .pop ∧
    decode (.port (0x4#4 ++ a ++ b) fin) = .ok (.peek (a ++ b)) ∧
    decode (.port (0x5#4 ++ a ++ b) fin) = .ok .reset ∧
    decode (.port (0x6#4 ++ a ++ b) fin) = .ok .count ∧
    decode (.port (0x7#4 ++ a ++ b) fin) = .ok .isEmpty ∧
    decode (.port (0x8#4 ++ a ++ b) fin) = .ok .isFull ∧
    decode (.port (0x9#4 ++ a ++ b) fin) = .ok .dstep ∧
    decode (.port (0xA#4 ++ a ++ b) fin) = .ok (.build a b) ∧
    (∃ f : Frame, decode (.port (0xB#4 ++ a ++ b) fin) = .ok (.checksum f) ∧
      ∀ i (_ : i < 13), f[i] = fin.extractLsb' (8 * i) 8) ∧
    ∀ op : BitVec 4, op = 0x0#4 ∨ 0xC#4 ≤ op →
      decode (.port (op ++ a ++ b) fin) = .error (.reservedOpcode op)

/-- Decoding the words of a well-formed instruction gives it back, whatever its operands. -/
def Obligations.DecodeOfEncodeIsIdentity : Prop :=
  ∀ i : Instr, i.wellFormed = true → decode (encode i) = .ok i

/-- R81: the FRAME_TX words, bit for bit, byte 0 in the low bits (D15), and `k = 0x0B ^ c`. -/
def Obligations.BuiltFrameBitForBit : Prop :=
  ∀ a c : Byte, ∃ k : Byte,
    encode (.frameTx a c) = .wire .outbound
      (0x7D#8 ++ 0x7D#8 ++ k ++ 0x00#8 ++ c ++ 0x00#8 ++ a ++ 0x01#8 ++ 0x03#8 ++ a ++ 0x09#8 ++ 0x7B#8 ++ 0x7B#8) ∧
    k = 0x09#8 ^^^ a ^^^ 0x03#8 ^^^ 0x01#8 ^^^ a ^^^ 0x00#8 ^^^ c ^^^ 0x00#8 ∧ k = 0x0B#8 ^^^ c

/-- Command words of 95_test_vectors.md (DV3 to DV8) and the syntax table of R93, written out. -/
def Obligations.SpecWordsDecode : Prop :=
  decodeTableWord 24 0x1AB11 = some (.push 0x11) ∧ decodeTableWord 24 0x20055 = some (.pushc 0x55) ∧
  decodeTableWord 24 0x3FFFF = some .pop ∧ decodeTableWord 24 0x40100 = some (.peek 0x0100) ∧
  decodeTableWord 24 0x50000 = some .reset ∧ decodeTableWord 24 0x9ABCD = some .dstep ∧
  decodeTableWord 24 0xA0502 = some (.build 0x05 0x02) ∧ decodeTableWord 24 0xC1234 = none ∧
  decodeTableWord 104 0x7D7D0900020005010305097B7B = some (.frameTx 0x05 0x02)

/-! ## The step, the agents and reset -/

/-- A step serves the next agent's first request: it executes the instruction the request's words decode to, and books
the request; a DRAIN whose DSTEP consumed a byte without a result stays at the front of its queue (R150). -/
def Obligations.StepRunsTheDecodedInstruction : Prop :=
  ∀ (s : State) (a : Agent) (q : Request) (rest : List Request) (i : Instr) (t : State),
    s.rst = false → s.nextAgent = some a → s.queue a = q :: rest →
    decode (q.words s.params) = .ok i → exec i s = .next t →
    ∃ left, step s = .next { t.setQueue a left with served := some a, turn := s.turn + 1 } ∧
      (q ≠ .drain → left = rest) ∧
      (∀ r, q = .drain → t.resp = some r → left = if r.ok = true ∧ r.rv = false then q :: rest else rest)

/-- R58: a step serves at most one agent, takes that agent's first request only, and leaves the other agent's requests
alone; with both waiting, either may be served. -/
def Obligations.StepServesOneAgentInItsOrder : Prop :=
  ∀ s u : State, s.rst = false → step s = .next u →
    (s.producer = [] ∧ s.consumer = [] ∧ u = s) ∨
    (∃ q rest, s.producer = q :: rest ∧ u.consumer = s.consumer ∧ u.served = some .producer ∧
      u.turn = s.turn + 1 ∧ (u.producer = rest ∨ (q = .drain ∧ u.producer = q :: rest))) ∨
    (∃ q rest, s.consumer = q :: rest ∧ u.producer = s.producer ∧ u.served = some .consumer ∧
      u.turn = s.turn + 1 ∧ (u.consumer = rest ∨ (q = .drain ∧ u.consumer = q :: rest)))

/-- R89: a command word with a reserved opcode changes no state and answers `ok = 0`, `rv = 0`. -/
def Obligations.ReservedOpcodeChangesNothing : Prop :=
  ∀ (s : State) (agent : Agent) (op : BitVec 4) (x y : Byte) (fin : FrameWord) (rest : List Request),
    s.rst = false → s.nextAgent = some agent → s.queue agent = .txn (.port (op ++ x ++ y) fin) :: rest →
    op = 0x0#4 ∨ 0xC#4 ≤ op →
    step s = .next { s.setQueue agent rest with served := some agent, turn := s.turn + 1,
                                                resp := some ⟨false, none, false, none, none, none⟩ }

/-- R202: with no command issued the block holds its state. -/
def Obligations.IdleBlockHoldsItsState : Prop :=
  ∀ s : State, s.rst = false → s.producer = [] → s.consumer = [] → step s = .next s

/-- R220, R221: hardware reset zeroes `rd`, `wr`, `count` and `cur` and writes neither RB, FB nor DOUT; afterwards DOUT
reads as an unspecified byte (entry 6), and the agents' requests stay pending (entry 9). -/
def Obligations.HardwareResetEffect : Prop :=
  ∀ s : State, s.rst = true → ∃ t, step s = .next t ∧
    t.rd = 0 ∧ t.wr = 0 ∧ t.count = 0 ∧ t.cur = 0 ∧ t.rb = s.rb ∧ t.fb = s.fb ∧ t.dout = s.dout ∧
    t.params = s.params ∧ t.readDout = Config.unspecifiedDout (s.resets + 1) ∧ t.rst = false ∧
    t.producer = s.producer ∧ t.consumer = s.consumer ∧ t.turn = s.turn

/-- R36: `rd`, `wr`, `count`, `cur` are 0 after reset, no cell of RB or FB holds a value, and DOUT reads as an
unspecified byte; this hardware has STRAY_RESTART = false (R6). -/
def Obligations.StateAfterReset : Prop :=
  State.reset.rd = 0 ∧ State.reset.wr = 0 ∧ State.reset.count = 0 ∧ State.reset.cur = 0 ∧
  (∀ a, Memory.lookup State.reset.rb a = none) ∧ (∀ a, Memory.lookup State.reset.fb a = none) ∧
  State.reset.readDout = Config.unspecifiedDout 0 ∧ State.reset.params.strayRestart = false

/-- R222: the first responses after reset, with no PUSH before them. -/
def Obligations.FirstResponsesAfterReset : Prop :=
  ∀ p : Params, ∀ s : State, s = { State.reset with params := p } →
    (∃ v, exec .pop s = .next { s with resp := some ⟨false, some v, false, none, none, none⟩ }) ∧
    (∀ idx, exec (.peek idx) s = .next { s with resp := some ⟨false, none, false, none, none, none⟩ }) ∧
    exec .count s = .next { s with resp := some ⟨true, some 0, false, none, none, none⟩ } ∧
    exec .isEmpty s = .next { s with resp := some ⟨true, some 1, false, none, none, none⟩ } ∧
    exec .isFull s = .next { s with resp := some ⟨true, some 0, false, none, none, none⟩ } ∧
    exec .dstep s = .next { s with resp := some ⟨false, none, false, none, none, none⟩ }

/-- R190: every command completes and returns a response, in every state. -/
def Obligations.EveryCommandCompletes : Prop :=
  ∀ (i : Instr) (s : State), ∃ t, exec i s = .next t ∧ t.resp.isSome = true

/-- No step stops on a request an agent can make of the block: only an outbound wire frame that is not what BUILD emits
has no meaning (entry 17). -/
def Obligations.StepNeverStops : Prop :=
  ∀ s : State, (∀ q ∈ s.producer, q.Servable) → (∀ q ∈ s.consumer, q.Servable) → ∃ t, step s = .next t

/-- R12, R223: a byte from the byte source is inserted with the command its policy names. -/
def Obligations.ArrivingByteFollowsThePolicy : Prop :=
  ∀ (s t : State) (agent : Agent) (b : Byte) (rest : List Request),
    s.rst = false → s.nextAgent = some agent → s.queue agent = .arrival b :: rest →
    exec (if s.params.pushPolicy = .dropNewest then .push b else .pushc b) s = .next t →
    step s = .next { t.setQueue agent rest with served := some agent, turn := s.turn + 1 }

/-- The parameters are fixed before reset and no step changes them (R29). -/
def Obligations.ParametersNeverChange : Prop :=
  ∀ s t : State, step s = .next t → t.params = s.params

/-! ## The ring buffer commands -/

/-- R110: PUSH on a full buffer changes nothing; otherwise it stores at `wr`, advances `wr` and counts. -/
def Obligations.PushResult : Prop :=
  ∀ (e : Byte) (s : State),
    (s.count = s.cap →
      exec (.push e) s = .next { s with resp := some ⟨false, none, false, none, none, none⟩ }) ∧
    (s.count ≠ s.cap →
      ∃ rb, exec (.push e) s = .next { s with rb := rb, wr := (s.wr + 1) % s.cap, count := s.count + 1,
                                              resp := some ⟨true, none, false, none, none, none⟩ } ∧
        ∀ a, Memory.lookup rb a = if a = s.wr then some e else Memory.lookup s.rb a)

/-- R111: PUSHC discards the oldest element of a full buffer, and always stores. -/
def Obligations.PushcResult : Prop :=
  ∀ (e : Byte) (s : State), ∃ rb,
    (∀ a, Memory.lookup rb a = if a = s.wr then some e else Memory.lookup s.rb a) ∧
    (s.count = s.cap →
      exec (.pushc e) s = .next { s with rb := rb, rd := (s.rd + 1) % s.cap, wr := (s.wr + 1) % s.cap,
                                         resp := some ⟨true, none, false, none, none, none⟩ }) ∧
    (s.count ≠ s.cap →
      exec (.pushc e) s = .next { s with rb := rb, wr := (s.wr + 1) % s.cap, count := s.count + 1,
                                         resp := some ⟨true, none, false, none, none, none⟩ })

/-- R112: POP moves the oldest element into DOUT; on an empty buffer nothing changes and `val` is the DOUT that stands.
-/
def Obligations.PopResult : Prop :=
  ∀ s : State,
    (s.count = 0 →
      exec .pop s = .next { s with resp := some ⟨false, some (s.readDout.setWidth 16), false, none, none, none⟩ }) ∧
    (s.count ≠ 0 →
      exec .pop s = .next { s with dout := s.readRb s.rd, doutDefined := true,
                                   rd := (s.rd + 1) % s.cap, count := s.count - 1,
                                   resp := some ⟨true, some ((s.readRb s.rd).setWidth 16), false, none, none, none⟩ })

/-- R113: PEEK answers the `idx`-th oldest element, or none; it writes no state. -/
def Obligations.PeekResult : Prop :=
  ∀ (idx : BitVec 16) (s : State),
    (s.count ≤ idx.toNat →
      exec (.peek idx) s = .next { s with resp := some ⟨false, none, false, none, none, none⟩ }) ∧
    (idx.toNat < s.count →
      exec (.peek idx) s = .next { s with resp := some ⟨true,
        some ((s.readRb ((s.rd + idx.toNat) % s.cap)).setWidth 16), false, none, none, none⟩ })

/-- R114: RESET zeroes `count`, `rd` and `wr` from any state and writes nothing else. -/
def Obligations.ResetResult : Prop :=
  ∀ s : State, exec .reset s = .next { s with count := 0, rd := 0, wr := 0,
                                              resp := some ⟨true, none, false, none, none, none⟩ }

/-- R115, R116, R117: the queries answer `count` and its two comparisons, and write no state. In a legal state the
16-bit `val` of COUNT is `count` itself. -/
def Obligations.QueryResults : Prop :=
  ∀ s : State,
    (∃ v : BitVec 16, exec .count s = .next { s with resp := some ⟨true, some v, false, none, none, none⟩ } ∧
      (s.Inv → v.toNat = s.count)) ∧
    exec .isEmpty s = .next { s with resp := some ⟨true, some (if s.count = 0 then 1 else 0), false, none, none, none⟩ } ∧
    exec .isFull s = .next { s with resp := some ⟨true, some (if s.count = s.cap then 1 else 0), false, none, none, none⟩ }

/-- R53: PEEK, the queries, BUILD, CHECKSUM and FRAME_TX are idempotent: issued again at once, they change nothing at
all, the response included. -/
def Obligations.ReadOnlyCommandsAreIdempotent : Prop :=
  ∀ (i : Instr) (s t : State), readOnly i = true → exec i s = .next t →
    exec i t = .next t ∧ t = { s with resp := t.resp }

/-- The ring buffer is a bounded queue: what each command does to the held elements, oldest first (R57, R119). -/
def Obligations.RingRefinesBoundedQueue : Prop :=
  ∀ s : State, s.Inv →
    s.held.length = s.count ∧
    (∀ e t, exec (.push e) s = .next t →
      t.held = if s.held.length < s.cap then s.held ++ [e] else s.held) ∧
    (∀ e t, exec (.pushc e) s = .next t →
      t.held = (if s.held.length < s.cap then s.held else s.held.drop 1) ++ [e]) ∧
    (∀ t, exec .pop s = .next t → t.held = s.held.drop 1 ∧ (∀ b ∈ s.held.head?, t.dout = b ∧ t.readDout = b)) ∧
    (∀ idx t, exec (.peek idx) s = .next t → t.held = s.held ∧
      ∃ r, t.resp = some r ∧ r.val = (s.held[idx.toNat]?).map (BitVec.setWidth 16)) ∧
    (∀ t, exec .reset s = .next t → t.held = []) ∧
    (∀ t, exec .dstep s = .next t → t.held = s.held.drop 1)

/-- R57: along any run of commands, what leaves the ring, in order, followed by what it still holds, is what it held at
the start followed by what entered, in order. -/
def Obligations.FifoOrderAlongAnyRun : Prop :=
  ∀ (is : List Instr) (s : State), s.Inv →
    (ringTrace is s).2.1 ++ (ringTrace is s).2.2 = s.held ++ (ringTrace is s).1

/-- R119 (e): after `C` PUSHC commands from any legal state the held elements are those `C` bytes, in order. -/
def Obligations.PushcKeepsTheMostRecentElements : Prop :=
  ∀ (bs : List Byte) (s : State), s.Inv → bs.length = s.cap →
    ∃ t, runInstrs (bs.map .pushc) s = .next t ∧ t.held = bs

/-- R117, R119 (a): after `C` successful pushes the buffer is full, a further PUSH fails and changes nothing, and a
PUSHC succeeds and leaves `count` at `C`. -/
def Obligations.CapacityProperty : Prop :=
  ∀ (bs : List Byte) (e : Byte) (s : State), s.Inv → s.count = 0 → bs.length = s.cap →
    ∃ t, runInstrs (bs.map .push) s = .next t ∧ t.held = bs ∧ t.count = t.cap ∧
      exec .isFull t = .next { t with resp := some ⟨true, some 1, false, none, none, none⟩ } ∧
      exec (.push e) t = .next { t with resp := some ⟨false, none, false, none, none, none⟩ } ∧
      ∃ u, exec (.pushc e) t = .next u ∧ u.count = u.cap ∧
        u.resp = some ⟨true, none, false, none, none, none⟩

/-! ## The parser -/

/-- R141, R142: DSTEP while the parser searches for the header (`cur` 0 or 1); the byte leaves the ring whether it is
stored or discarded. -/
def Obligations.DstepSearchesForTheHeader : Prop :=
  ∀ s : State, s.count ≠ 0 → s.cur.val < 2 →
    (s.readRb s.rd = 0x7B#8 →
      ∃ fb c, exec .dstep s = .next { s with rd := (s.rd + 1) % s.cap, count := s.count - 1, fb := fb, cur := c,
                                             resp := some ⟨true, none, false, none, none, none⟩ } ∧
        c.val = s.cur.val + 1 ∧
        ∀ i, Memory.lookup fb i = if i = s.cur.val then some 0x7B#8 else Memory.lookup s.fb i) ∧
    (s.readRb s.rd ≠ 0x7B#8 →
      exec .dstep s = .next { s with rd := (s.rd + 1) % s.cap, count := s.count - 1,
                                     cur := if s.params.strayRestart = true then 0 else s.cur,
                                     resp := some ⟨true, none, false, none, none, none⟩ })

/-- R143, `2 <= cur <= 11`: DSTEP stores any byte at `cur` and advances `cur`. -/
def Obligations.DstepStoresTheBody : Prop :=
  ∀ s : State, s.count ≠ 0 → 2 ≤ s.cur.val → s.cur.val < 12 →
    ∃ fb c, exec .dstep s = .next { s with rd := (s.rd + 1) % s.cap, count := s.count - 1, fb := fb, cur := c,
                                           resp := some ⟨true, none, false, none, none, none⟩ } ∧
      c.val = s.cur.val + 1 ∧
      ∀ i, Memory.lookup fb i = if i = s.cur.val then some (s.readRb s.rd) else Memory.lookup s.fb i

/-- R143, R144: at `cur = 12` the byte completes the frame; `cur` becomes 0, and the result `(f[6], f[7])` is delivered
exactly when the window lies in the frame and its XOR is `f[10]`. -/
def Obligations.DstepCompletesTheFrame : Prop :=
  ∀ s : State, s.count ≠ 0 → s.cur.val = 12 →
    ∃ fb, (∀ i, Memory.lookup fb i = if i = 12 then some (s.readRb s.rd) else Memory.lookup s.fb i) ∧
      (Accepts (s.completed (s.readRb s.rd)) →
        exec .dstep s = .next { s with rd := (s.rd + 1) % s.cap, count := s.count - 1, fb := fb, cur := 0,
                                       resp := some ⟨true, none, true, some (s.readFb 6), some (s.readFb 7), none⟩ }) ∧
      (¬ Accepts (s.completed (s.readRb s.rd)) →
        exec .dstep s = .next { s with rd := (s.rd + 1) % s.cap, count := s.count - 1, fb := fb, cur := 0,
                                       resp := some ⟨true, none, false, none, none, none⟩ })

/-- R147: on an empty ring DSTEP answers `ok = 0`, `rv = 0` and changes nothing, `cur` and FB included. -/
def Obligations.DstepOnAnEmptyRing : Prop :=
  ∀ s : State, s.count = 0 →
    exec .dstep s = .next { s with resp := some ⟨false, none, false, none, none, none⟩ }

/-- R149: the parser's results and cursor depend only on the bytes it consumes, `cur`, FB below `cur` and the
parameter, and not on how the bytes were grouped. -/
def Obligations.ParserDependsOnItsOwnStateOnly : Prop :=
  ∀ (xs ys : List Byte) (s t : State), t.params.strayRestart = s.params.strayRestart → t.cur = s.cur →
    (∀ i < s.cur.val, t.readFb i = s.readFb i) →
    (feed (xs ++ ys) t).2 = (feed xs s).2 ++ (feed ys (feed xs s).1).2 ∧
    (feed (xs ++ ys) t).1.cur = (feed ys (feed xs s).1).1.cur

/-- R147, R149: `n` DSTEP commands on a ring that holds at least `n` bytes feed the parser the `n` oldest, and leave
the rest. -/
def Obligations.DstepsFeedTheParser : Prop :=
  ∀ (n : Nat) (s : State), s.Inv → n ≤ s.count →
    ∃ t, runInstrs (List.replicate n .dstep) s = .next t ∧ t.held = s.held.drop n ∧
      t.cur = (feed (s.held.take n) s).1.cur ∧ t.fb = (feed (s.held.take n) s).1.fb ∧
      t.dout = s.dout ∧ t.wr = s.wr

/-- R146: from `cur = 0` the parser assembles `7B [^7B]* 7B .{11}`: the bytes between the two headers are discarded,
any 11 bytes follow, and the frame is judged by R82 (STRAY_RESTART = false). -/
def Obligations.AssembledByteSequences : Prop :=
  ∀ (noise gap : List Byte) (body : List Byte) (f : Frame) (s : State),
    s.params.strayRestart = false → s.cur = 0 → 0x7B#8 ∉ noise → 0x7B#8 ∉ gap → body.length = 11 →
    f.toList = [0x7B#8, 0x7B#8] ++ body →
    ∃ t rs, feed (noise ++ [0x7B#8] ++ gap ++ [0x7B#8] ++ body) s = (t, rs) ∧ t.cur = 0 ∧
      (∀ i < 13, t.readFb i = byteAt f i) ∧
      (Accepts (byteAt f) → rs = [(f[6], f[7])]) ∧ (¬ Accepts (byteAt f) → rs = [])

/-- R152 (b): valid frames separated by garbage without 0x7B yield exactly their results, in order. -/
def Obligations.ResynchronisationOverGarbage : Prop :=
  ∀ (segments : List (List Byte × Frame)) (tail : List Byte) (s : State), s.cur = 0 →
    (∀ g ∈ segments, 0x7B#8 ∉ g.1 ∧ AcceptedFrame g.2) → 0x7B#8 ∉ tail →
    ∃ t, feed (segments.flatMap (fun g => g.1 ++ g.2.toList) ++ tail) s
        = (t, segments.map fun g => frameResult g.2) ∧ t.cur = 0

/-- R234: once one 0x7B has been taken at `cur = 0`, the next frame is lost, whatever garbage without 0x7B comes
between (STRAY_RESTART = false). -/
def Obligations.FrameAfterAStrayHeaderIsLost : Prop :=
  ∀ (garbage : List Byte) (f : Frame) (s : State), s.params.strayRestart = false → s.cur.val = 1 →
    0x7B#8 ∉ garbage → AcceptedFrame f → f[12] ≠ 0x7B#8 →
    ∃ t, feed (garbage ++ f.toList) s = (t, []) ∧ t.cur = 0

/-- R152 (c): in an accepted frame with LEN 0x09, any change of one of the bytes 3 to 10, a single-bit flip among them,
makes the frame invalid; a change of byte 11 or 12 has no effect. -/
def Obligations.DamagedWindowByteIsRejected : Prop :=
  ∀ (f : Frame) (i : Nat) (d : Byte) (hi : i < 13), AcceptedFrame f → f[2] = 0x09#8 → d ≠ 0 → 3 ≤ i →
    validate (f.set i (f[i] ^^^ d) hi) = if i ≤ 10 then none else some (f[6], f[7])

/-- R152 (c): which single-bit flips of LEN leave an accepted frame with LEN 0x09 valid. -/
def Obligations.FlippedLengthBit : Prop :=
  ∀ (f : Frame) (bit : Nat), AcceptedFrame f → f[2] = 0x09#8 → bit < 8 →
    ((validate (f.set 2 (0x09#8 ^^^ (1#8 <<< bit)))).isSome = true ↔
      (bit = 0 ∧ f[9] = 0x01#8) ∨ (bit = 1 ∧ f[10] = f[11] ^^^ 0x02#8) ∨ (bit = 3 ∧ f[10] = 0x00#8))

/-- R151: a result is delivered only for a completed valid frame: by the DSTEP that consumed its thirteenth byte, alone or
among the commands of a FRAME_RX run (entry 14), where it is the DSTEP behind some byte `f[n]`. -/
def Obligations.ResultsComeFromCompletedFramesOnly : Prop :=
  ∀ (i : Instr) (s t : State) (r : Response), exec i s = .next t → t.resp = some r → r.rv = true →
    (i = .dstep ∧ s.count ≠ 0 ∧ s.cur.val = 12 ∧ Accepts (s.completed (s.readRb s.rd)) ∧
      r.raddr = some (s.readFb 6) ∧ r.rstat = some (s.readFb 7)) ∨
    ∃ (f : Frame) (n : Nat) (h : n < 13) (v : State), i = .frameRx f ∧
      runInstrs (receiveCommands s.params (f.toList.take n) ++ [insertCommand s.params.pushPolicy f[n]]) s = .next v ∧
      v.count ≠ 0 ∧ v.cur.val = 12 ∧ Accepts (v.completed (v.readRb v.rd)) ∧
      r.raddr = some (v.readFb 6) ∧ r.rstat = some (v.readFb 7)

/-! ## Checksum and builder -/

/-- R180, R181, R182, R184: the checksum for every value of `f[2]`. -/
def Obligations.ChecksumForEveryLength : Prop :=
  ∀ f : Frame,
    (f[2].toNat < 2 → chk f = some 0x00#8) ∧
    (f[2].toNat = 2 → chk f = some 0x02#8) ∧
    (f[2].toNat = 3 → chk f = some (0x03#8 ^^^ f[3])) ∧
    (f[2].toNat = 4 → chk f = some (f[2] ^^^ f[3] ^^^ f[4])) ∧
    (f[2].toNat = 5 → chk f = some (f[2] ^^^ f[3] ^^^ f[4] ^^^ f[5])) ∧
    (f[2].toNat = 6 → chk f = some (f[2] ^^^ f[3] ^^^ f[4] ^^^ f[5] ^^^ f[6])) ∧
    (f[2].toNat = 7 → chk f = some (f[2] ^^^ f[3] ^^^ f[4] ^^^ f[5] ^^^ f[6] ^^^ f[7])) ∧
    (f[2].toNat = 8 → chk f = some (f[2] ^^^ f[3] ^^^ f[4] ^^^ f[5] ^^^ f[6] ^^^ f[7] ^^^ f[8])) ∧
    (f[2].toNat = 9 → chk f = some (f[2] ^^^ f[3] ^^^ f[4] ^^^ f[5] ^^^ f[6] ^^^ f[7] ^^^ f[8] ^^^ f[9])) ∧
    (f[2].toNat = 10 → chk f = some (f[2] ^^^ f[3] ^^^ f[4] ^^^ f[5] ^^^ f[6] ^^^ f[7] ^^^ f[8] ^^^ f[9] ^^^ f[10])) ∧
    (f[2].toNat = 11 → chk f =
      some (f[2] ^^^ f[3] ^^^ f[4] ^^^ f[5] ^^^ f[6] ^^^ f[7] ^^^ f[8] ^^^ f[9] ^^^ f[10] ^^^ f[11])) ∧
    (f[2].toNat = 12 → chk f =
      some (f[2] ^^^ f[3] ^^^ f[4] ^^^ f[5] ^^^ f[6] ^^^ f[7] ^^^ f[8] ^^^ f[9] ^^^ f[10] ^^^ f[11] ^^^ f[12])) ∧
    (12 < f[2].toNat → chk f = none)

/-- R183: CHECKSUM answers the XOR of the window, or `ok = 0` when the window leaves the frame; it writes no state. -/
def Obligations.ChecksumCommandResult : Prop :=
  ∀ (f : Frame) (s : State),
    (f[2].toNat ≤ 12 → exec (.checksum f) s = .next { s with
      resp := some ⟨true, some ((windowXor (byteAt f) f[2].toNat).setWidth 16), false, none, none, none⟩ }) ∧
    (12 < f[2].toNat → exec (.checksum f) s = .next { s with
      resp := some ⟨false, none, false, none, none, none⟩ })

/-- R183: the checksum does not depend on bytes 0 and 1, nor on any byte above `f[2]`. -/
def Obligations.ChecksumReadsTheWindowOnly : Prop :=
  ∀ f g : Frame, (∀ i (_ : i < 13), 2 ≤ i → i ≤ max 2 f[2].toNat → g[i] = f[i]) → chk g = chk f

/-- R185: changing one window byte other than `f[2]` by a difference `d` changes the checksum by exactly `d`. -/
def Obligations.ChecksumShiftsByTheDifference : Prop :=
  ∀ (f : Frame) (i : Nat) (d c : Byte) (hi : i < 13), 3 ≤ i → i ≤ f[2].toNat → chk f = some c →
    chk (f.set i (f[i] ^^^ d) hi) = some (c ^^^ d)

/-- R170, R171: BUILD returns the 13-byte frame with `f[10] = 0x0B ^ command`, and touches no state. -/
def Obligations.BuildResult : Prop :=
  ∀ (a c : Byte) (s : State), ∃ k : Byte,
    exec (.build a c) s = .next { s with resp := some ⟨true, none, false, none, none,
      some (0x7D#8 ++ 0x7D#8 ++ k ++ 0x00#8 ++ c ++ 0x00#8 ++ a ++ 0x01#8 ++ 0x03#8 ++ a ++ 0x09#8 ++ 0x7B#8 ++ 0x7B#8)⟩ } ∧
    k = 0x09#8 ^^^ a ^^^ 0x03#8 ^^^ 0x01#8 ^^^ a ^^^ 0x00#8 ^^^ c ^^^ 0x00#8 ∧ k = 0x0B#8 ^^^ c

/-- FRAME_TX (entry 13): the emission of the frame BUILD makes, its words those of the wire frame itself. -/
def Obligations.FrameTxResult : Prop :=
  ∀ (a c : Byte) (s : State), ∃ w : FrameWord,
    encode (.frameTx a c) = .wire .outbound w ∧
    exec (.frameTx a c) s = .next { s with resp := some ⟨true, none, false, none, none, some w⟩ }

/-- R172, R152 (a): the 13 bytes of a built frame, fed to a parser at `cur = 0`, yield no result on the first 12 bytes
and exactly `(address, 0x00)` on the thirteenth. -/
def Obligations.BuiltFrameRoundTrip : Prop :=
  ∀ (a c : Byte) (s : State), s.cur = 0 →
    (feed ((buildFrame a c).toList.take 12) s).2 = [] ∧
    (feed (buildFrame a c).toList s).2 = [(a, 0x00#8)] ∧
    (feed (buildFrame a c).toList s).1.cur = 0

/-- FRAME_RX (entry 14) as R144 has it: with the ring empty and `cur = 0`, FB keeps the 13 bytes, `cur` is 0, and the
response delivers `(f[6], f[7])` exactly when the run is accepted (R82). The 13 bytes pass through the cells from `wr` on;
everything else is unchanged. -/
def Obligations.FrameRxResult : Prop :=
  ∀ (f : Frame) (s : State), s.Inv → s.count = 0 → f[0] = 0x7B#8 → f[1] = 0x7B#8 → s.cur = 0 →
    ∃ rb fb, (∀ i (_ : i < 13), Memory.lookup fb i = some f[i]) ∧
      (∀ a, (∀ i < 13, a ≠ (s.wr + i) % s.cap) → Memory.lookup rb a = Memory.lookup s.rb a) ∧
      (Accepts (byteAt f) → exec (.frameRx f) s = .next { s with
        rd := (s.rd + 13) % s.cap, wr := (s.wr + 13) % s.cap, rb := rb, fb := fb, cur := 0,
        resp := some ⟨true, none, true, some f[6], some f[7], none⟩ }) ∧
      (¬ Accepts (byteAt f) → exec (.frameRx f) s = .next { s with
        rd := (s.rd + 13) % s.cap, wr := (s.wr + 13) % s.cap, rb := rb, fb := fb, cur := 0,
        resp := some ⟨true, none, false, none, none, none⟩ })

/-- FRAME_RX (entry 14) from every legal state, whatever `cur` is and the ring holds: the parser takes the thirteen oldest
bytes of what is then to be consumed, the rest stays held, and the response delivers the result of the frame they
complete, if any. -/
def Obligations.FrameRxFeedsTheParser : Prop :=
  ∀ (f : Frame) (s : State), s.Inv → ∃ t p results, feed ((s.backlog f.toList).take 13) s = (p, results) ∧
    exec (.frameRx f) s = .next t ∧ t.cur = p.cur ∧ t.fb = p.fb ∧ t.held = (s.backlog f.toList).drop 13 ∧
    results.length ≤ 1 ∧
    t.resp = some ⟨true, none, !results.isEmpty, results.head?.map Prod.fst, results.head?.map Prod.snd, none⟩

/-- An inbound run, FRAME_RX or noise, does to the block what its commands do, one insertion and one DSTEP for each byte
(R12, R20, R147; entries 14, 17). Its response is the last DSTEP's unless an earlier one delivered a result. -/
def Obligations.InboundRunIsItsCommands : Prop :=
  ∀ (f : Frame) (s : State), ∃ t u,
    runInstrs (receiveCommands s.params f.toList) s = .next u ∧ exec (.frameRx f) s = .next t ∧
    runWords (.wire .inbound (packFrame f)) s = .next t ∧ t = { u with resp := t.resp } ∧
    (t.resp = u.resp ∨ ∃ r, t.resp = some r ∧ r.rv = true)

/-- FRAME_RX on an empty ring (entry 14): the parser ends where thirteen DSTEP commands end that consume the same bytes
from a ring that holds them, and from `cur = 0` the response is theirs. -/
def Obligations.FrameRxAgreesWithDsteps : Prop :=
  ∀ (f : Frame) (s u v : State), s.Inv → s.count = 0 → u.Inv → u.held = f.toList → u.params.strayRestart = s.params.strayRestart →
    u.cur = s.cur → u.fb = s.fb → runInstrs (List.replicate 13 .dstep) u = .next v →
    ∃ t, exec (.frameRx f) s = .next t ∧ t.cur = v.cur ∧ t.fb = v.fb ∧ t.held = v.held ∧ (s.cur = 0 → t.resp = v.resp)

/-! ## The whole machine -/

/-- The invariants hold in the state after reset. -/
def Obligations.InvariantsHoldAfterReset : Prop := State.reset.Inv

/-- R32 to R35: every step keeps the invariants, from every state that meets them. -/
def Obligations.StepKeepsTheInvariants : Prop :=
  ∀ s t : State, s.Inv → step s = .next t → t.Inv

/-- R34: stale bytes cannot be observed. Two legal states that agree on everything but stale bytes answer every command
alike, and still agree afterwards. -/
def Obligations.StaleBytesAreUnobservable : Prop :=
  ∀ (i : Instr) (s t : State), s.Inv → t.Inv → SameLive s t →
    ∃ s' t', exec i s = .next s' ∧ exec i t = .next t' ∧ t'.resp = s'.resp ∧ SameLive s' t'

/-- R20 to R25: which commands write which register and store. A FRAME_RX run is counted where its insertions and DSTEPs
write (entry 14, InboundRunIsItsCommands); POP alone writes DOUT, and no command anything outside the block. -/
def Obligations.WhichCommandWritesWhat : Prop :=
  ∀ (i : Instr) (s t : State), exec i s = .next t →
    (t.rd ≠ s.rd → i = .pop ∨ i = .dstep ∨ i = .reset ∨ ((∃ e, i = .pushc e) ∧ s.count = s.cap) ∨ ∃ f, i = .frameRx f) ∧
    (t.wr ≠ s.wr → (∃ e, i = .push e) ∨ (∃ e, i = .pushc e) ∨ i = .reset ∨ ∃ f, i = .frameRx f) ∧
    (t.count ≠ s.count →
      ((∃ e, i = .push e) ∨ ∃ e, i = .pushc e) ∧ s.count ≠ s.cap ∨ (i = .pop ∨ i = .dstep) ∧ s.count ≠ 0 ∨ i = .reset ∨
        (∃ f, i = .frameRx f) ∧ s.count = s.cap) ∧
    (t.rb ≠ s.rb → (∃ e, i = .push e) ∨ (∃ e, i = .pushc e) ∨ ∃ f, i = .frameRx f) ∧
    (t.dout ≠ s.dout ∨ t.doutDefined ≠ s.doutDefined → i = .pop ∧ s.count ≠ 0) ∧
    (t.cur ≠ s.cur ∨ t.fb ≠ s.fb → (i = .dstep ∧ s.count ≠ 0) ∨ ∃ f, i = .frameRx f) ∧
    t.params = s.params ∧ t.producer = s.producer ∧ t.consumer = s.consumer ∧ t.rst = s.rst ∧ t.turn = s.turn ∧
    t.resets = s.resets ∧ t.served = s.served

/-- The least widths of R6 hold every value a register takes in a legal state (R21 to R23). -/
def Obligations.RegisterWidthsSuffice : Prop :=
  ∀ s : State, s.Inv →
    s.rd < 2 ^ s.params.indexWidth ∧ s.wr < 2 ^ s.params.indexWidth ∧ s.count < 2 ^ s.params.countWidth

/-! ## DRAIN -/

/-- R150: a drain cycle with no producer at work ends after at most `count + 1` DSTEPs, with a result or with the ring
found empty. -/
def Obligations.DrainCycleEnds : Prop :=
  ∀ s : State, s.rst = false → s.producer = [] → s.consumer = [.drain] →
    ∃ k t r, 1 ≤ k ∧ k ≤ s.count + 1 ∧ Host.Core.run Sys2Proof.core k s = .next t ∧ t.consumer = [] ∧
      t.resp = some r ∧ (r.rv = true ∨ (r.ok = false ∧ t.count = 0))
end

