-- ==== Sys2Proof/Laws/State.lean ====
section
/-! SUPPORT. One lemma per field of State and named update, each true by definition, so that no later proof unfolds a record update. -/

namespace Sys2Proof.Machine

/-! ## setRd -/

@[simp] theorem State.setRd_params (s : State) (v : Nat) : (s.setRd v).params = s.params := rfl
@[simp] theorem State.setRd_rd (s : State) (v : Nat) : (s.setRd v).rd = v := rfl
@[simp] theorem State.setRd_wr (s : State) (v : Nat) : (s.setRd v).wr = s.wr := rfl
@[simp] theorem State.setRd_count (s : State) (v : Nat) : (s.setRd v).count = s.count := rfl
@[simp] theorem State.setRd_dout (s : State) (v : Nat) : (s.setRd v).dout = s.dout := rfl
@[simp] theorem State.setRd_cur (s : State) (v : Nat) : (s.setRd v).cur = s.cur := rfl
@[simp] theorem State.setRd_rb (s : State) (v : Nat) : (s.setRd v).rb = s.rb := rfl
@[simp] theorem State.setRd_fb (s : State) (v : Nat) : (s.setRd v).fb = s.fb := rfl
@[simp] theorem State.setRd_doutDefined (s : State) (v : Nat) : (s.setRd v).doutDefined = s.doutDefined := rfl
@[simp] theorem State.setRd_resets (s : State) (v : Nat) : (s.setRd v).resets = s.resets := rfl
@[simp] theorem State.setRd_rst (s : State) (v : Nat) : (s.setRd v).rst = s.rst := rfl
@[simp] theorem State.setRd_producer (s : State) (v : Nat) : (s.setRd v).producer = s.producer := rfl
@[simp] theorem State.setRd_consumer (s : State) (v : Nat) : (s.setRd v).consumer = s.consumer := rfl
@[simp] theorem State.setRd_turn (s : State) (v : Nat) : (s.setRd v).turn = s.turn := rfl
@[simp] theorem State.setRd_served (s : State) (v : Nat) : (s.setRd v).served = s.served := rfl
@[simp] theorem State.setRd_resp (s : State) (v : Nat) : (s.setRd v).resp = s.resp := rfl

/-! ## setWr -/

@[simp] theorem State.setWr_params (s : State) (v : Nat) : (s.setWr v).params = s.params := rfl
@[simp] theorem State.setWr_rd (s : State) (v : Nat) : (s.setWr v).rd = s.rd := rfl
@[simp] theorem State.setWr_wr (s : State) (v : Nat) : (s.setWr v).wr = v := rfl
@[simp] theorem State.setWr_count (s : State) (v : Nat) : (s.setWr v).count = s.count := rfl
@[simp] theorem State.setWr_dout (s : State) (v : Nat) : (s.setWr v).dout = s.dout := rfl
@[simp] theorem State.setWr_cur (s : State) (v : Nat) : (s.setWr v).cur = s.cur := rfl
@[simp] theorem State.setWr_rb (s : State) (v : Nat) : (s.setWr v).rb = s.rb := rfl
@[simp] theorem State.setWr_fb (s : State) (v : Nat) : (s.setWr v).fb = s.fb := rfl
@[simp] theorem State.setWr_doutDefined (s : State) (v : Nat) : (s.setWr v).doutDefined = s.doutDefined := rfl
@[simp] theorem State.setWr_resets (s : State) (v : Nat) : (s.setWr v).resets = s.resets := rfl
@[simp] theorem State.setWr_rst (s : State) (v : Nat) : (s.setWr v).rst = s.rst := rfl
@[simp] theorem State.setWr_producer (s : State) (v : Nat) : (s.setWr v).producer = s.producer := rfl
@[simp] theorem State.setWr_consumer (s : State) (v : Nat) : (s.setWr v).consumer = s.consumer := rfl
@[simp] theorem State.setWr_turn (s : State) (v : Nat) : (s.setWr v).turn = s.turn := rfl
@[simp] theorem State.setWr_served (s : State) (v : Nat) : (s.setWr v).served = s.served := rfl
@[simp] theorem State.setWr_resp (s : State) (v : Nat) : (s.setWr v).resp = s.resp := rfl

/-! ## setCount -/

@[simp] theorem State.setCount_params (s : State) (v : Nat) : (s.setCount v).params = s.params := rfl
@[simp] theorem State.setCount_rd (s : State) (v : Nat) : (s.setCount v).rd = s.rd := rfl
@[simp] theorem State.setCount_wr (s : State) (v : Nat) : (s.setCount v).wr = s.wr := rfl
@[simp] theorem State.setCount_count (s : State) (v : Nat) : (s.setCount v).count = v := rfl
@[simp] theorem State.setCount_dout (s : State) (v : Nat) : (s.setCount v).dout = s.dout := rfl
@[simp] theorem State.setCount_cur (s : State) (v : Nat) : (s.setCount v).cur = s.cur := rfl
@[simp] theorem State.setCount_rb (s : State) (v : Nat) : (s.setCount v).rb = s.rb := rfl
@[simp] theorem State.setCount_fb (s : State) (v : Nat) : (s.setCount v).fb = s.fb := rfl
@[simp] theorem State.setCount_doutDefined (s : State) (v : Nat) : (s.setCount v).doutDefined = s.doutDefined := rfl
@[simp] theorem State.setCount_resets (s : State) (v : Nat) : (s.setCount v).resets = s.resets := rfl
@[simp] theorem State.setCount_rst (s : State) (v : Nat) : (s.setCount v).rst = s.rst := rfl
@[simp] theorem State.setCount_producer (s : State) (v : Nat) : (s.setCount v).producer = s.producer := rfl
@[simp] theorem State.setCount_consumer (s : State) (v : Nat) : (s.setCount v).consumer = s.consumer := rfl
@[simp] theorem State.setCount_turn (s : State) (v : Nat) : (s.setCount v).turn = s.turn := rfl
@[simp] theorem State.setCount_served (s : State) (v : Nat) : (s.setCount v).served = s.served := rfl
@[simp] theorem State.setCount_resp (s : State) (v : Nat) : (s.setCount v).resp = s.resp := rfl

/-! ## setCur -/

@[simp] theorem State.setCur_params (s : State) (v : Fin 13) : (s.setCur v).params = s.params := rfl
@[simp] theorem State.setCur_rd (s : State) (v : Fin 13) : (s.setCur v).rd = s.rd := rfl
@[simp] theorem State.setCur_wr (s : State) (v : Fin 13) : (s.setCur v).wr = s.wr := rfl
@[simp] theorem State.setCur_count (s : State) (v : Fin 13) : (s.setCur v).count = s.count := rfl
@[simp] theorem State.setCur_dout (s : State) (v : Fin 13) : (s.setCur v).dout = s.dout := rfl
@[simp] theorem State.setCur_cur (s : State) (v : Fin 13) : (s.setCur v).cur = v := rfl
@[simp] theorem State.setCur_rb (s : State) (v : Fin 13) : (s.setCur v).rb = s.rb := rfl
@[simp] theorem State.setCur_fb (s : State) (v : Fin 13) : (s.setCur v).fb = s.fb := rfl
@[simp] theorem State.setCur_doutDefined (s : State) (v : Fin 13) : (s.setCur v).doutDefined = s.doutDefined := rfl
@[simp] theorem State.setCur_resets (s : State) (v : Fin 13) : (s.setCur v).resets = s.resets := rfl
@[simp] theorem State.setCur_rst (s : State) (v : Fin 13) : (s.setCur v).rst = s.rst := rfl
@[simp] theorem State.setCur_producer (s : State) (v : Fin 13) : (s.setCur v).producer = s.producer := rfl
@[simp] theorem State.setCur_consumer (s : State) (v : Fin 13) : (s.setCur v).consumer = s.consumer := rfl
@[simp] theorem State.setCur_turn (s : State) (v : Fin 13) : (s.setCur v).turn = s.turn := rfl
@[simp] theorem State.setCur_served (s : State) (v : Fin 13) : (s.setCur v).served = s.served := rfl
@[simp] theorem State.setCur_resp (s : State) (v : Fin 13) : (s.setCur v).resp = s.resp := rfl

/-! ## setDout -/

@[simp] theorem State.setDout_params (s : State) (v : Byte) : (s.setDout v).params = s.params := rfl
@[simp] theorem State.setDout_rd (s : State) (v : Byte) : (s.setDout v).rd = s.rd := rfl
@[simp] theorem State.setDout_wr (s : State) (v : Byte) : (s.setDout v).wr = s.wr := rfl
@[simp] theorem State.setDout_count (s : State) (v : Byte) : (s.setDout v).count = s.count := rfl
@[simp] theorem State.setDout_dout (s : State) (v : Byte) : (s.setDout v).dout = v := rfl
@[simp] theorem State.setDout_cur (s : State) (v : Byte) : (s.setDout v).cur = s.cur := rfl
@[simp] theorem State.setDout_rb (s : State) (v : Byte) : (s.setDout v).rb = s.rb := rfl
@[simp] theorem State.setDout_fb (s : State) (v : Byte) : (s.setDout v).fb = s.fb := rfl
@[simp] theorem State.setDout_doutDefined (s : State) (v : Byte) : (s.setDout v).doutDefined = true := rfl
@[simp] theorem State.setDout_resets (s : State) (v : Byte) : (s.setDout v).resets = s.resets := rfl
@[simp] theorem State.setDout_rst (s : State) (v : Byte) : (s.setDout v).rst = s.rst := rfl
@[simp] theorem State.setDout_producer (s : State) (v : Byte) : (s.setDout v).producer = s.producer := rfl
@[simp] theorem State.setDout_consumer (s : State) (v : Byte) : (s.setDout v).consumer = s.consumer := rfl
@[simp] theorem State.setDout_turn (s : State) (v : Byte) : (s.setDout v).turn = s.turn := rfl
@[simp] theorem State.setDout_served (s : State) (v : Byte) : (s.setDout v).served = s.served := rfl
@[simp] theorem State.setDout_resp (s : State) (v : Byte) : (s.setDout v).resp = s.resp := rfl

/-! ## writeRb -/

@[simp] theorem State.writeRb_params (s : State) (a : Nat) (v : Byte) : (s.writeRb a v).params = s.params := rfl
@[simp] theorem State.writeRb_rd (s : State) (a : Nat) (v : Byte) : (s.writeRb a v).rd = s.rd := rfl
@[simp] theorem State.writeRb_wr (s : State) (a : Nat) (v : Byte) : (s.writeRb a v).wr = s.wr := rfl
@[simp] theorem State.writeRb_count (s : State) (a : Nat) (v : Byte) : (s.writeRb a v).count = s.count := rfl
@[simp] theorem State.writeRb_dout (s : State) (a : Nat) (v : Byte) : (s.writeRb a v).dout = s.dout := rfl
@[simp] theorem State.writeRb_cur (s : State) (a : Nat) (v : Byte) : (s.writeRb a v).cur = s.cur := rfl
@[simp] theorem State.writeRb_rb (s : State) (a : Nat) (v : Byte) : (s.writeRb a v).rb = Memory.write s.rb a v := rfl
@[simp] theorem State.writeRb_fb (s : State) (a : Nat) (v : Byte) : (s.writeRb a v).fb = s.fb := rfl
@[simp] theorem State.writeRb_doutDefined (s : State) (a : Nat) (v : Byte) : (s.writeRb a v).doutDefined = s.doutDefined := rfl
@[simp] theorem State.writeRb_resets (s : State) (a : Nat) (v : Byte) : (s.writeRb a v).resets = s.resets := rfl
@[simp] theorem State.writeRb_rst (s : State) (a : Nat) (v : Byte) : (s.writeRb a v).rst = s.rst := rfl
@[simp] theorem State.writeRb_producer (s : State) (a : Nat) (v : Byte) : (s.writeRb a v).producer = s.producer := rfl
@[simp] theorem State.writeRb_consumer (s : State) (a : Nat) (v : Byte) : (s.writeRb a v).consumer = s.consumer := rfl
@[simp] theorem State.writeRb_turn (s : State) (a : Nat) (v : Byte) : (s.writeRb a v).turn = s.turn := rfl
@[simp] theorem State.writeRb_served (s : State) (a : Nat) (v : Byte) : (s.writeRb a v).served = s.served := rfl
@[simp] theorem State.writeRb_resp (s : State) (a : Nat) (v : Byte) : (s.writeRb a v).resp = s.resp := rfl

/-! ## writeFb -/

@[simp] theorem State.writeFb_params (s : State) (a : Nat) (v : Byte) : (s.writeFb a v).params = s.params := rfl
@[simp] theorem State.writeFb_rd (s : State) (a : Nat) (v : Byte) : (s.writeFb a v).rd = s.rd := rfl
@[simp] theorem State.writeFb_wr (s : State) (a : Nat) (v : Byte) : (s.writeFb a v).wr = s.wr := rfl
@[simp] theorem State.writeFb_count (s : State) (a : Nat) (v : Byte) : (s.writeFb a v).count = s.count := rfl
@[simp] theorem State.writeFb_dout (s : State) (a : Nat) (v : Byte) : (s.writeFb a v).dout = s.dout := rfl
@[simp] theorem State.writeFb_cur (s : State) (a : Nat) (v : Byte) : (s.writeFb a v).cur = s.cur := rfl
@[simp] theorem State.writeFb_rb (s : State) (a : Nat) (v : Byte) : (s.writeFb a v).rb = s.rb := rfl
@[simp] theorem State.writeFb_fb (s : State) (a : Nat) (v : Byte) : (s.writeFb a v).fb = Memory.write s.fb a v := rfl
@[simp] theorem State.writeFb_doutDefined (s : State) (a : Nat) (v : Byte) : (s.writeFb a v).doutDefined = s.doutDefined := rfl
@[simp] theorem State.writeFb_resets (s : State) (a : Nat) (v : Byte) : (s.writeFb a v).resets = s.resets := rfl
@[simp] theorem State.writeFb_rst (s : State) (a : Nat) (v : Byte) : (s.writeFb a v).rst = s.rst := rfl
@[simp] theorem State.writeFb_producer (s : State) (a : Nat) (v : Byte) : (s.writeFb a v).producer = s.producer := rfl
@[simp] theorem State.writeFb_consumer (s : State) (a : Nat) (v : Byte) : (s.writeFb a v).consumer = s.consumer := rfl
@[simp] theorem State.writeFb_turn (s : State) (a : Nat) (v : Byte) : (s.writeFb a v).turn = s.turn := rfl
@[simp] theorem State.writeFb_served (s : State) (a : Nat) (v : Byte) : (s.writeFb a v).served = s.served := rfl
@[simp] theorem State.writeFb_resp (s : State) (a : Nat) (v : Byte) : (s.writeFb a v).resp = s.resp := rfl

/-! ## respond -/

@[simp] theorem State.respond_params (s : State) (r : Response) : (s.respond r).params = s.params := rfl
@[simp] theorem State.respond_rd (s : State) (r : Response) : (s.respond r).rd = s.rd := rfl
@[simp] theorem State.respond_wr (s : State) (r : Response) : (s.respond r).wr = s.wr := rfl
@[simp] theorem State.respond_count (s : State) (r : Response) : (s.respond r).count = s.count := rfl
@[simp] theorem State.respond_dout (s : State) (r : Response) : (s.respond r).dout = s.dout := rfl
@[simp] theorem State.respond_cur (s : State) (r : Response) : (s.respond r).cur = s.cur := rfl
@[simp] theorem State.respond_rb (s : State) (r : Response) : (s.respond r).rb = s.rb := rfl
@[simp] theorem State.respond_fb (s : State) (r : Response) : (s.respond r).fb = s.fb := rfl
@[simp] theorem State.respond_doutDefined (s : State) (r : Response) : (s.respond r).doutDefined = s.doutDefined := rfl
@[simp] theorem State.respond_resets (s : State) (r : Response) : (s.respond r).resets = s.resets := rfl
@[simp] theorem State.respond_rst (s : State) (r : Response) : (s.respond r).rst = s.rst := rfl
@[simp] theorem State.respond_producer (s : State) (r : Response) : (s.respond r).producer = s.producer := rfl
@[simp] theorem State.respond_consumer (s : State) (r : Response) : (s.respond r).consumer = s.consumer := rfl
@[simp] theorem State.respond_turn (s : State) (r : Response) : (s.respond r).turn = s.turn := rfl
@[simp] theorem State.respond_served (s : State) (r : Response) : (s.respond r).served = s.served := rfl
@[simp] theorem State.respond_resp (s : State) (r : Response) : (s.respond r).resp = some r := rfl

/-! ## The ring operations -/

@[simp] theorem State.insert_params (s : State) (e : Byte) : (s.insert e).params = s.params := rfl
@[simp] theorem State.insert_rd (s : State) (e : Byte) : (s.insert e).rd = s.rd := rfl
@[simp] theorem State.insert_wr (s : State) (e : Byte) : (s.insert e).wr = s.advance s.wr := rfl
@[simp] theorem State.insert_count (s : State) (e : Byte) : (s.insert e).count = s.count + 1 := rfl
@[simp] theorem State.insert_dout (s : State) (e : Byte) : (s.insert e).dout = s.dout := rfl
@[simp] theorem State.insert_cur (s : State) (e : Byte) : (s.insert e).cur = s.cur := rfl
@[simp] theorem State.insert_rb (s : State) (e : Byte) : (s.insert e).rb = Memory.write s.rb s.wr e := rfl
@[simp] theorem State.insert_fb (s : State) (e : Byte) : (s.insert e).fb = s.fb := rfl
@[simp] theorem State.insert_doutDefined (s : State) (e : Byte) : (s.insert e).doutDefined = s.doutDefined := rfl
@[simp] theorem State.insert_resets (s : State) (e : Byte) : (s.insert e).resets = s.resets := rfl
@[simp] theorem State.insert_rst (s : State) (e : Byte) : (s.insert e).rst = s.rst := rfl
@[simp] theorem State.insert_producer (s : State) (e : Byte) : (s.insert e).producer = s.producer := rfl
@[simp] theorem State.insert_consumer (s : State) (e : Byte) : (s.insert e).consumer = s.consumer := rfl
@[simp] theorem State.insert_turn (s : State) (e : Byte) : (s.insert e).turn = s.turn := rfl
@[simp] theorem State.insert_served (s : State) (e : Byte) : (s.insert e).served = s.served := rfl
@[simp] theorem State.insert_resp (s : State) (e : Byte) : (s.insert e).resp = s.resp := rfl

@[simp] theorem State.removeOldest_params (s : State) : (s.removeOldest).params = s.params := rfl
@[simp] theorem State.removeOldest_rd (s : State) : (s.removeOldest).rd = s.advance s.rd := rfl
@[simp] theorem State.removeOldest_wr (s : State) : (s.removeOldest).wr = s.wr := rfl
@[simp] theorem State.removeOldest_count (s : State) : (s.removeOldest).count = s.count - 1 := rfl
@[simp] theorem State.removeOldest_dout (s : State) : (s.removeOldest).dout = s.dout := rfl
@[simp] theorem State.removeOldest_cur (s : State) : (s.removeOldest).cur = s.cur := rfl
@[simp] theorem State.removeOldest_rb (s : State) : (s.removeOldest).rb = s.rb := rfl
@[simp] theorem State.removeOldest_fb (s : State) : (s.removeOldest).fb = s.fb := rfl
@[simp] theorem State.removeOldest_doutDefined (s : State) : (s.removeOldest).doutDefined = s.doutDefined := rfl
@[simp] theorem State.removeOldest_resets (s : State) : (s.removeOldest).resets = s.resets := rfl
@[simp] theorem State.removeOldest_rst (s : State) : (s.removeOldest).rst = s.rst := rfl
@[simp] theorem State.removeOldest_producer (s : State) : (s.removeOldest).producer = s.producer := rfl
@[simp] theorem State.removeOldest_consumer (s : State) : (s.removeOldest).consumer = s.consumer := rfl
@[simp] theorem State.removeOldest_turn (s : State) : (s.removeOldest).turn = s.turn := rfl
@[simp] theorem State.removeOldest_served (s : State) : (s.removeOldest).served = s.served := rfl
@[simp] theorem State.removeOldest_resp (s : State) : (s.removeOldest).resp = s.resp := rfl

/-! ## hardwareReset -/

@[simp] theorem State.hardwareReset_params (s : State) : (s.hardwareReset).params = s.params := rfl
@[simp] theorem State.hardwareReset_rd (s : State) : (s.hardwareReset).rd = 0 := rfl
@[simp] theorem State.hardwareReset_wr (s : State) : (s.hardwareReset).wr = 0 := rfl
@[simp] theorem State.hardwareReset_count (s : State) : (s.hardwareReset).count = 0 := rfl
@[simp] theorem State.hardwareReset_dout (s : State) : (s.hardwareReset).dout = s.dout := rfl
@[simp] theorem State.hardwareReset_cur (s : State) : (s.hardwareReset).cur = 0 := rfl
@[simp] theorem State.hardwareReset_rb (s : State) : (s.hardwareReset).rb = s.rb := rfl
@[simp] theorem State.hardwareReset_fb (s : State) : (s.hardwareReset).fb = s.fb := rfl
@[simp] theorem State.hardwareReset_doutDefined (s : State) : (s.hardwareReset).doutDefined = false := rfl
@[simp] theorem State.hardwareReset_resets (s : State) : (s.hardwareReset).resets = s.resets + 1 := rfl
@[simp] theorem State.hardwareReset_rst (s : State) : (s.hardwareReset).rst = false := rfl
@[simp] theorem State.hardwareReset_producer (s : State) : (s.hardwareReset).producer = s.producer := rfl
@[simp] theorem State.hardwareReset_consumer (s : State) : (s.hardwareReset).consumer = s.consumer := rfl
@[simp] theorem State.hardwareReset_turn (s : State) : (s.hardwareReset).turn = s.turn := rfl
@[simp] theorem State.hardwareReset_served (s : State) : (s.hardwareReset).served = none := rfl
@[simp] theorem State.hardwareReset_resp (s : State) : (s.hardwareReset).resp = none := rfl

end Sys2Proof.Machine
end

