-- ==== Sys2Proof/Laws/Memory.lean ====
section
/-! SUPPORT. The laws of the byte stores: reading after writing, and the canonical form. -/

namespace Sys2Proof.Machine

@[simp] theorem Memory.lookup_nil (a : Nat) : Memory.lookup [] a = none := rfl

/-- In a store whose indices all exceed `a`, the cell `a` has not been written. -/
theorem Memory.lookup_none_of_lt (m : Memory) (a : Nat) (h : ∀ c ∈ m, a < c.1) : Memory.lookup m a = none := by
  induction m with
  | nil => rfl
  | cons c m ih =>
    have hc : c.1 ≠ a := by have := h c (by simp); omega
    simp only [Memory.lookup, if_neg hc]
    exact ih fun d hd => h d (List.mem_cons_of_mem _ hd)

/-- A cell reads as what was last written to it, and every other cell as before. -/
@[simp] theorem Memory.lookup_write (m : Memory) (a b : Nat) (v : Byte) :
    Memory.lookup (Memory.write m a v) b = if b = a then some v else Memory.lookup m b := by
  induction m with
  | nil => simp [Memory.write, Memory.lookup, eq_comm]
  | cons c m ih =>
    obtain ⟨k, w⟩ := c
    simp only [Memory.write]
    split
    · simp [Memory.lookup, eq_comm]
    · split
      · subst_vars; by_cases hb : k = b <;> simp [Memory.lookup, hb, eq_comm]; simp_all [eq_comm]
      · by_cases hk : k = b
        · subst hk; simp_all [Memory.lookup, eq_comm]
        · simp [Memory.lookup, hk, ih]

/-- The cells of a written store are the cell written and cells that were there before. -/
theorem Memory.mem_write (m : Memory) (a : Nat) (v : Byte) (c : Host.Cell) (h : c ∈ Memory.write m a v) :
    c = (a, v) ∨ c ∈ m := by
  induction m with
  | nil => simpa [Memory.write] using h
  | cons d m ih =>
    obtain ⟨k, w⟩ := d
    simp only [Memory.write] at h
    split at h
    · simpa using h
    · split at h
      · simp only [List.mem_cons] at h ⊢; tauto
      · simp only [List.mem_cons] at h ⊢
        rcases h with h | h
        · exact Or.inr (Or.inl h)
        · rcases ih h with h | h <;> tauto

/-- A write keeps the canonical form. -/
theorem Memory.write_wf (m : Memory) (a : Nat) (v : Byte) (h : Memory.wf m) : Memory.wf (Memory.write m a v) := by
  induction m with
  | nil => simp [Memory.write, Memory.wf]
  | cons d m ih =>
    obtain ⟨k, w⟩ := d
    obtain ⟨hk, hm⟩ := List.pairwise_cons.1 h
    simp only [Memory.write]
    split
    · rename_i hak
      refine List.pairwise_cons.2 ⟨fun c hc => ?_, h⟩
      rcases List.mem_cons.1 hc with rfl | hc
      · exact hak
      · exact Nat.lt_trans hak (hk c hc)
    · split
      · subst_vars; exact List.pairwise_cons.2 ⟨hk, hm⟩
      · refine List.pairwise_cons.2 ⟨fun c hc => ?_, ih hm⟩
        rcases Memory.mem_write m a v c hc with rfl | hc
        · show k < a; omega
        · exact hk c hc

/-- A write keeps the store inside its address space. -/
theorem Memory.write_bound (m : Memory) (a n : Nat) (v : Byte) (ha : a < n) (h : ∀ c ∈ m, c.1 < n) :
    ∀ c ∈ Memory.write m a v, c.1 < n := by
  intro c hc
  rcases Memory.mem_write m a v c hc with rfl | hc
  · exact ha
  · exact h c hc

/-- A store in canonical form that is written with what it already holds is unchanged. -/
theorem Memory.write_same (m : Memory) (a : Nat) (v : Byte) (hw : Memory.wf m) (h : Memory.lookup m a = some v) :
    Memory.write m a v = m := by
  induction m with
  | nil => simp at h
  | cons d m ih =>
    obtain ⟨k, w⟩ := d
    obtain ⟨hk, hm⟩ := List.pairwise_cons.1 hw
    by_cases hka : k = a
    · subst hka; simp_all [Memory.lookup, Memory.write]
    · simp only [Memory.lookup, if_neg hka] at h
      have hlt : k < a := by
        by_contra hc
        have := Memory.lookup_none_of_lt m a (fun c hcm => by have := hk c hcm; omega)
        simp_all
      simp only [Memory.write, if_neg (show ¬ a < k by omega), if_neg (show ¬ a = k by omega), ih hm h]

end Sys2Proof.Machine
end

