-- ==== Sys2Proof/Laws/Ops.lean ====
section
/-! SUPPORT. What the named operations of Machine/Ops.lean do to what later commands read. -/

namespace Sys2Proof.Machine

/-! ## Reads depend on one field each -/

theorem State.cap_pos (s : State) : 1 ≤ s.cap := s.params.capacity.2.1

theorem State.cap_le (s : State) : s.cap ≤ 65535 := s.params.capacity.2.2

/-- The capacity is a parameter: it depends on `params` only. -/
theorem State.cap_congr (s t : State) (h : t.params = s.params) : t.cap = s.cap := by simp [State.cap, h]

theorem State.advance_lt (s : State) (i : Nat) : s.advance i < s.cap := Nat.mod_lt _ s.cap_pos

theorem State.peekIndex_lt (s : State) (k : Nat) : s.peekIndex k < s.cap := Nat.mod_lt _ s.cap_pos

theorem State.readRb_congr (s t : State) (h : t.rb = s.rb) (a : Nat) : t.readRb a = s.readRb a := by
  simp [State.readRb, h]

theorem State.readFb_congr (s t : State) (h : t.fb = s.fb) (a : Nat) : t.readFb a = s.readFb a := by
  simp [State.readFb, h]

/-! ## Read after write -/

@[simp] theorem State.readRb_writeRb (s : State) (a b : Nat) (v : Byte) :
    (s.writeRb a v).readRb b = if b = a then v else s.readRb b := by
  by_cases h : b = a <;> simp [State.readRb, h]

@[simp] theorem State.readFb_writeFb (s : State) (a b : Nat) (v : Byte) :
    (s.writeFb a v).readFb b = if b = a then v else s.readFb b := by
  by_cases h : b = a <;> simp [State.readFb, h]

@[simp] theorem State.readRb_insert (s : State) (e : Byte) (b : Nat) :
    (s.insert e).readRb b = if b = s.wr then e else s.readRb b := by
  by_cases h : b = s.wr <;> simp [State.readRb, h]

@[simp] theorem State.readDout_setDout (s : State) (v : Byte) : (s.setDout v).readDout = v := by
  simp [State.readDout]

/-! ## Frames -/

/-- Reading one byte of `FB[0..=12]` as a frame. -/
@[simp] theorem byteAt_frame (s : State) (i : Nat) (h : i < 13) : byteAt s.frame i = s.readFb i := by
  simp [byteAt, State.frame, h]

/-- The byte of a frame at a legal index. -/
theorem byteAt_eq_getElem (f : Frame) (i : Nat) (h : i < 13) : byteAt f i = f[i] := by
  simp [byteAt, h]

/-- Two frames with the same 13 bytes are equal. -/
theorem frame_ext (f g : Frame) (h : ∀ i < 13, byteAt f i = byteAt g i) : f = g := by
  ext i hi
  have := h i hi
  simp_all [byteAt_eq_getElem]

/-- A byte of a frame with one byte replaced. -/
theorem byteAt_set (f : Frame) (i j : Nat) (hi : i < 13) (hj : j < 13) (v : Byte) :
    byteAt (f.set i v hi) j = if j = i then v else byteAt f j := by
  by_cases h : j = i
  · subst h; simp [byteAt, hj]
  · simp [byteAt, hj, h, Vector.getElem_set_ne hi hj (Ne.symm h)]

/-- Byte `i` of a frame taken off a 104-bit port is its bits `[8*i+7 : 8*i]` (R51). -/
theorem byteAt_unpackFrame (w : FrameWord) (i : Nat) (h : i < 13) :
    byteAt (unpackFrame w) i = w.extractLsb' (8 * i) 8 := by
  simp [byteAt, unpackFrame, h]

end Sys2Proof.Machine
end

