-- ==== Sys2Proof/Laws/Checksum.lean ====
section
/-! SUPPORT. The checksum window as a recursion on its upper index, and what `Chk` and the validation answer (43_checksum.md R180, 41_frame_parser.md R144). -/

namespace Sys2Proof.Machine

/-- The window's XOR depends on the bytes 2 to `n` only. -/
theorem windowXor_congr (f g : Nat → Byte) (n : Nat) (h : ∀ i, 2 ≤ i → i ≤ n → g i = f i) :
    windowXor g n = windowXor f n := by
  induction n with
  | zero => rfl
  | succ n ih =>
    cases n with
    | zero => rfl
    | succ n =>
      simp only [windowXor]
      rw [ih fun i h2 hi => h i h2 (by omega), h (n + 2) (by omega) (by omega)]

/-- Changing one byte of the window by `d` changes its XOR by `d` (R185). -/
theorem windowXor_shift (f : Nat → Byte) (n i : Nat) (d : Byte) (h2 : 2 ≤ i) (hi : i ≤ n) :
    windowXor (fun j => if j = i then f i ^^^ d else f j) n = windowXor f n ^^^ d := by
  induction n with
  | zero => omega
  | succ n ih =>
    cases n with
    | zero => omega
    | succ n =>
      simp only [windowXor]
      rcases Nat.lt_or_ge i (n + 2) with hlt | hge
      · rw [ih (by omega), if_neg (by omega)]
        simp only [BitVec.xor_assoc, BitVec.xor_comm d]
      · obtain rfl : i = n + 2 := by omega
        rw [if_pos rfl, windowXor_congr f _ (n + 1) fun j _ hj => if_neg (by omega)]
        simp only [BitVec.xor_assoc]

/-- The loop of R180 is the window's XOR. -/
theorem xorWindow_eq (f : Frame) (n : Nat) : xorWindow f n = windowXor (byteAt f) n := by
  induction n with
  | zero => rfl
  | succ n ih =>
    cases n with
    | zero => rfl
    | succ n =>
      have : n + 1 + 1 - 1 = (n + 1 - 1) + 1 := by omega
      unfold xorWindow at ih ⊢
      rw [this, List.range'_concat, List.foldl_append, ih]
      show windowXor (byteAt f) (n + 1) ^^^ byteAt f (2 + 1 * (n + 1 - 1)) = windowXor (byteAt f) (n + 1) ^^^ byteAt f (n + 2)
      congr 2; omega

/-- `Chk` in one line (R180, R182). -/
theorem chk_eq (f : Frame) :
    chk f = if (byteAt f 2).toNat ≤ 12 then some (windowXor (byteAt f) (byteAt f 2).toNat) else none := by
  show (if 12 < (byteAt f 2).toNat then none else some (xorWindow f (byteAt f 2).toNat)) = _
  by_cases h : (byteAt f 2).toNat ≤ 12
  · rw [if_neg (by omega), if_pos h, xorWindow_eq]
  · rw [if_pos (by omega), if_neg h]

/-- Acceptance depends on the 13 bytes only. -/
theorem accepts_congr (f g : Nat → Byte) (h : ∀ i < 13, g i = f i) : Accepts g ↔ Accepts f := by
  unfold Accepts
  rw [h 2 (by omega), h 10 (by omega)]
  refine and_congr_right fun hn => ?_
  rw [windowXor_congr f g _ fun i _ hi => h i (by omega)]

/-- The validation delivers bytes 6 and 7 of exactly the frames of R82 (R144). -/
theorem validate_eq (f : Frame) :
    validate f = if Accepts (byteAt f) then some (byteAt f 6, byteAt f 7) else none := by
  unfold validate Accepts
  rw [chk_eq]
  by_cases h : (byteAt f 2).toNat ≤ 12
  · simp [h]
  · simp [h]

end Sys2Proof.Machine
end

