-- ==== Sys2Proof/Laws/Decode.lean ====
section
/-! SUPPORT. The fields of a command word and the bytes of a frame port come back as they were laid out (30_encoding.md R85, 20_memory.md R51). -/

namespace Sys2Proof

/-- A bit of the low byte of a concatenation. -/
theorem getLsbD_append_low {n : Nat} (x : BitVec n) (y : Byte) (j : Nat) (h : j < 8) :
    (x ++ y).getLsbD (8 * 0 + j) = y.getLsbD j := by
  rw [BitVec.getLsbD_append, if_pos (by omega)]; congr 1; omega

/-- A bit above the low byte of a concatenation. -/
theorem getLsbD_append_high {n : Nat} (x : BitVec n) (y : Byte) (k j : Nat) :
    (x ++ y).getLsbD (8 * (k + 1) + j) = x.getLsbD (8 * k + j) := by
  rw [BitVec.getLsbD_append, if_neg (by omega)]; congr 1; omega

/-- The opcode of a word laid out by fields. -/
theorem opField_append (op : BitVec 4) (a b : Byte) : opField (op ++ a ++ b) = op := by
  refine BitVec.eq_of_getLsbD_eq fun j hj => ?_
  unfold opField
  rw [BitVec.getLsbD_extractLsb']
  simp only [hj, decide_true, Bool.true_and]
  refine (getLsbD_append_high (op ++ a) b 1 j).trans ((getLsbD_append_high op a 0 j).trans ?_)
  congr 1; omega

/-- The first operand byte of a word laid out by fields. -/
theorem aField_append (op : BitVec 4) (a b : Byte) : aField (op ++ a ++ b) = a := by
  refine BitVec.eq_of_getLsbD_eq fun j hj => ?_
  unfold aField
  rw [BitVec.getLsbD_extractLsb']
  simp only [hj, decide_true, Bool.true_and]
  exact (getLsbD_append_high (op ++ a) b 0 j).trans (getLsbD_append_low _ _ _ hj)

/-- The second operand byte of a word laid out by fields. -/
theorem bField_append (op : BitVec 4) (a b : Byte) : bField (op ++ a ++ b) = b := by
  refine BitVec.eq_of_getLsbD_eq fun j hj => ?_
  unfold bField
  rw [BitVec.getLsbD_extractLsb']
  simp only [hj, decide_true, Bool.true_and]
  exact getLsbD_append_low _ _ _ hj

/-- The bytes of a frame laid on a port are the frame's. -/
theorem unpackFrame_packFrame (f : Frame) : unpackFrame (packFrame f) = f := by
  ext1 i hi
  simp only [unpackFrame, Vector.getElem_ofFn]
  refine BitVec.eq_of_getLsbD_eq fun j hj => ?_
  rw [BitVec.getLsbD_extractLsb']
  simp only [hj, decide_true, Bool.true_and]
  unfold packFrame
  interval_cases i
  all_goals
    first
    | exact getLsbD_append_low _ _ _ hj
    | (repeat refine (getLsbD_append_high _ _ _ _).trans ?_)
      first
      | exact getLsbD_append_low _ _ _ hj
      | (show BitVec.getLsbD _ (8 * 0 + j) = _; congr 1; omega)

end Sys2Proof
end

