-- ==== Sys2Proof/Laws/Queue.lean ====
section
/-! SUPPORT. The ring buffer seen as the list of its held elements (10_state.md R30), and what its two shared operations, insertion and removal, do to that list and to the invariants (R32, R33). -/

namespace Sys2Proof.Machine

@[simp] theorem State.held_length (s : State) : s.held.length = s.count := by simp [State.held]

/-- The `k`-th oldest element (R54 (c)). -/
theorem State.held_getElem? (s : State) (k : Nat) :
    s.held[k]? = if k < s.count then some (s.readRb (s.peekIndex k)) else none := by
  by_cases h : k < s.count <;> simp [State.held, h]

/-- The held elements depend on the registers and on live cells only. -/
theorem State.held_congr (s t : State) (hp : t.params = s.params) (hr : t.rd = s.rd) (hc : t.count = s.count)
    (hb : ∀ k < s.count, t.readRb (s.peekIndex k) = s.readRb (s.peekIndex k)) : t.held = s.held := by
  have hi : ∀ k, t.peekIndex k = s.peekIndex k := fun k => by simp [State.peekIndex, State.cap, hp, hr]
  refine List.ext_getElem? fun k => ?_
  rw [State.held_getElem?, State.held_getElem?, hc]
  split
  · rename_i h; rw [hi, hb k h]
  · rfl

/-- Two different offsets below `C` from the read index are two different cells. -/
theorem State.peekIndex_ne (s : State) (j k : Nat) (hjk : j < k) (hk : k < s.cap) :
    s.peekIndex j ≠ s.peekIndex k := by
  intro h
  have hm : j ≡ k [MOD s.cap] := Nat.ModEq.add_left_cancel' s.rd h
  have := Nat.ModEq.eq_of_lt_of_lt hm (by omega) hk
  omega

/-- Inserting into a buffer that is not full appends the element (R110). -/
theorem State.held_insert (s : State) (e : Byte) (hw : s.wr = (s.rd + s.count) % s.cap) (hc : s.count < s.cap) :
    (s.insert e).held = s.held ++ [e] := by
  have hwr : s.wr = s.peekIndex s.count := hw
  refine List.ext_getElem? fun k => ?_
  have hi : (s.insert e).peekIndex k = s.peekIndex k := rfl
  rw [State.held_getElem?, hi, State.readRb_insert, hwr]
  rcases Nat.lt_trichotomy k s.count with h | h | h
  · rw [if_pos (show k < (s.insert e).count from Nat.lt_succ_of_lt h), if_neg (s.peekIndex_ne k _ h hc)]
    rw [List.getElem?_append_left (by simpa using h), State.held_getElem?, if_pos h]
  · subst h
    simp
  · rw [if_neg (show ¬ k < (s.insert e).count by simp; omega)]
    simp; omega

/-- Removing the oldest element of a buffer that is not empty drops the head (R112). -/
theorem State.held_removeOldest (s : State) : s.removeOldest.held = s.held.drop 1 := by
  refine List.ext_getElem? fun k => ?_
  rw [List.getElem?_drop, State.held_getElem?, State.held_getElem?]
  have hi : s.removeOldest.peekIndex k = s.peekIndex (1 + k) := by
    show ((s.rd + 1) % s.cap + k) % s.cap = (s.rd + (1 + k)) % s.cap
    rw [Nat.mod_add_mod]; congr 1; omega
  have hc : (k < s.removeOldest.count) = (1 + k < s.count) := by simp; omega
  rw [hi, if_congr (by rw [hc]) rfl rfl]
  rfl

/-- The oldest element is the byte at the read index (R21). -/
theorem State.held_head? (s : State) (hr : s.rd < s.cap) :
    s.held.head? = if s.count = 0 then none else some (s.readRb s.rd) := by
  rw [List.head?_eq_getElem?, State.held_getElem?]
  have : s.peekIndex 0 = s.rd := Nat.mod_eq_of_lt hr
  by_cases h : s.count = 0
  · simp [h]
  · simp [h, this, Nat.pos_of_ne_zero h]

/-! ## The invariants -/

/-- The invariants depend on the spec's state only: not on DOUT, the response, the agents or the model's counters. -/
theorem State.Inv.congr {s t : State} (h : s.Inv) (hp : t.params = s.params) (hr : t.rd = s.rd) (hw : t.wr = s.wr)
    (hc : t.count = s.count) (hcur : t.cur = s.cur) (hrb : t.rb = s.rb) (hfb : t.fb = s.fb) : t.Inv := by
  have hcap : t.cap = s.cap := State.cap_congr s t hp
  have hi : ∀ k, t.peekIndex k = s.peekIndex k := fun k => by simp [State.peekIndex, hcap, hr]
  constructor
  · rw [hc, hcap]; exact h.count_le
  · rw [hr, hcap]; exact h.rd_lt
  · rw [hw, hcap]; exact h.wr_lt
  · rw [hw, hr, hc, hcap]; exact h.wr_eq
  · rw [hcur, hfb]; exact h.header0
  · rw [hcur, hfb]; exact h.header1
  · rw [hrb]; exact h.rb_wf
  · rw [hfb]; exact h.fb_wf
  · rw [hrb, hcap]; exact h.rb_bound
  · rw [hfb]; exact h.fb_bound
  · simp only [hc, hrb, hi]; exact h.live_written
  · rw [hcur, hfb]; exact h.body_written

theorem State.Inv.respond {s : State} (h : s.Inv) (r : Response) : (s.respond r).Inv := h.congr rfl rfl rfl rfl rfl rfl rfl

theorem State.Inv.setDout {s : State} (h : s.Inv) (v : Byte) : (s.setDout v).Inv := h.congr rfl rfl rfl rfl rfl rfl rfl

/-- Insertion into a buffer that is not full keeps the invariants. -/
theorem State.Inv.insert {s : State} (h : s.Inv) (hc : s.count < s.cap) (e : Byte) : (s.insert e).Inv where
  count_le := by simpa [State.cap] using hc
  rd_lt := h.rd_lt
  wr_lt := s.advance_lt _
  wr_eq := by
    show (s.wr + 1) % s.cap = (s.rd + (s.count + 1)) % s.cap
    rw [h.wr_eq, Nat.mod_add_mod]; congr 1
  header0 := h.header0
  header1 := h.header1
  rb_wf := Memory.write_wf _ _ _ h.rb_wf
  fb_wf := h.fb_wf
  rb_bound := Memory.write_bound _ _ _ _ h.wr_lt h.rb_bound
  fb_bound := h.fb_bound
  live_written := by
    intro k hk
    show (Memory.lookup (Memory.write s.rb s.wr e) (s.peekIndex k)).isSome
    rw [Memory.lookup_write]
    split
    · rfl
    · rename_i hne
      refine h.live_written k ?_
      rcases Nat.lt_or_ge k s.count with hlt | hge
      · exact hlt
      · have : k = s.count := by have : k < s.count + 1 := hk; omega
        subst this
        exact absurd h.wr_eq.symm hne
  body_written := h.body_written

/-- Removal from a buffer that is not empty keeps the invariants. -/
theorem State.Inv.removeOldest {s : State} (h : s.Inv) (hc : s.count ≠ 0) : s.removeOldest.Inv where
  count_le := by
    show s.count - 1 ≤ s.cap
    have := h.count_le; omega
  rd_lt := s.advance_lt _
  wr_lt := h.wr_lt
  wr_eq := by
    show s.wr = ((s.rd + 1) % s.cap + (s.count - 1)) % s.cap
    rw [h.wr_eq, Nat.mod_add_mod]; congr 1; omega
  header0 := h.header0
  header1 := h.header1
  rb_wf := h.rb_wf
  fb_wf := h.fb_wf
  rb_bound := h.rb_bound
  fb_bound := h.fb_bound
  live_written := by
    intro k hk
    have hi : s.removeOldest.peekIndex k = s.peekIndex (1 + k) := by
      show ((s.rd + 1) % s.cap + k) % s.cap = (s.rd + (1 + k)) % s.cap
      rw [Nat.mod_add_mod]; congr 1; omega
    rw [hi]
    have hk' : k < s.count - 1 := hk
    exact h.live_written (1 + k) (by omega)
  body_written := h.body_written

/-- A ring with its three registers at 0 and the parser's part unchanged meets the invariants (R114). -/
theorem State.Inv.empty {s : State} (h : s.Inv) : (((s.setCount 0).setRd 0).setWr 0).Inv where
  count_le := Nat.zero_le _
  rd_lt := s.cap_pos
  wr_lt := s.cap_pos
  wr_eq := (Nat.zero_mod _).symm
  header0 := h.header0
  header1 := h.header1
  rb_wf := h.rb_wf
  fb_wf := h.fb_wf
  rb_bound := h.rb_bound
  fb_bound := h.fb_bound
  live_written := fun _ hk => absurd hk (Nat.not_lt_zero _)
  body_written := h.body_written

end Sys2Proof.Machine
end

