-- ==== Sys2Proof/Laws/Parser.lean ====
section
/-! SUPPORT. The byte step ParseByte, once and for all: its cases (41_frame_parser.md R148), its frame, what it depends on, and the invariants it keeps. -/

namespace Sys2Proof.Machine

open Config

/-! ## The cases of R148 -/

/-- R141. -/
theorem parseByte_first (b : Byte) (s : State) (h : s.cur.val = 0) :
    parseByte b s = if b = HEAD then ((s.writeFb 0 b).setCur 1, none) else (s, none) := by
  have h : s.cur = 0 := Fin.ext h
  simp [parseByte, h]

/-- R142. -/
theorem parseByte_second (b : Byte) (s : State) (h : s.cur.val = 1) :
    parseByte b s = if b = HEAD then ((s.writeFb 1 b).setCur 2, none)
      else if s.params.strayRestart then (s.setCur 0, none) else (s, none) := by
  have h : s.cur = 1 := Fin.ext h
  simp [parseByte, h]

/-- R143, before the thirteenth byte. -/
theorem parseByte_body (b : Byte) (s : State) (h2 : 2 ≤ s.cur.val) (h : s.cur.val < 12) :
    parseByte b s = ((s.writeFb s.cur.val b).setCur ⟨s.cur.val + 1, by omega⟩, none) := by
  have h0 : s.cur ≠ 0 := fun hc => by simp [hc] at h2
  have h1 : s.cur ≠ 1 := fun hc => by simp [hc] at h2
  simp [parseByte, h0, h1, h]

/-- R143 and R144, the thirteenth byte. -/
theorem parseByte_last (b : Byte) (s : State) (h : s.cur.val = 12) :
    parseByte b s = ((s.writeFb 12 b).setCur 0,
      if Accepts (s.completed b) then some (s.readFb 6, s.readFb 7) else none) := by
  have h0 : s.cur ≠ 0 := fun hc => by simp [hc] at h
  have h1 : s.cur ≠ 1 := fun hc => by simp [hc] at h
  simp only [parseByte, h0, h1, if_false, h, Nat.lt_irrefl, dif_neg, not_false_eq_true]
  refine Prod.ext rfl ?_
  show validate (s.writeFb 12 b).frame = _
  rw [validate_eq]
  have hb : ∀ i < 13, byteAt (s.writeFb 12 b).frame i = s.completed b i := fun i hi => by
    simp [hi, State.completed]
  simp only [accepts_congr _ _ hb]
  simp

/-! ## The frame -/

/-- ParseByte writes `cur` and FB and nothing else. -/
theorem parseByte_frame (b : Byte) (s : State) :
    (parseByte b s).1 = { s with cur := (parseByte b s).1.cur, fb := (parseByte b s).1.fb } := by
  unfold parseByte
  split
  · split <;> rfl
  · split
    · split
      · rfl
      · split <;> rfl
    · split <;> rfl

/-- Bytes fed to the parser write `cur` and FB and nothing else. -/
theorem feed_frame (bs : List Byte) (s : State) :
    (feed bs s).1 = { s with cur := (feed bs s).1.cur, fb := (feed bs s).1.fb } := by
  induction bs generalizing s with
  | nil => rfl
  | cons b bs ih =>
    have hp := parseByte_frame b s
    have hf := ih (parseByte b s).1
    show (feed bs (parseByte b s).1).1 = { s with
      cur := (feed bs (parseByte b s).1).1.cur, fb := (feed bs (parseByte b s).1).1.fb }
    refine hf.trans ?_
    generalize (feed bs (parseByte b s).1).1.cur = c
    generalize (feed bs (parseByte b s).1).1.fb = m
    rw [hp]

/-- Feeding in two pieces is feeding the whole (R149). -/
theorem feed_append (xs ys : List Byte) (s : State) :
    feed (xs ++ ys) s = ((feed ys (feed xs s).1).1, (feed xs s).2 ++ (feed ys (feed xs s).1).2) := by
  induction xs generalizing s with
  | nil => rfl
  | cons b xs ih =>
    simp only [List.cons_append, feed, ih, List.append_assoc]

@[simp] theorem feed_nil (s : State) : feed [] s = (s, []) := rfl

theorem feed_cons (b : Byte) (bs : List Byte) (s : State) :
    feed (b :: bs) s = ((feed bs (parseByte b s).1).1, (parseByte b s).2.toList ++ (feed bs (parseByte b s).1).2) := rfl

/-! ## What ParseByte depends on -/

/-- Two states whose parsers agree: the parameter, `cur`, and FB below `cur` (R31). -/
structure ParserAgree (s t : State) : Prop where
  stray : t.params.strayRestart = s.params.strayRestart
  cur   : t.cur = s.cur
  body  : ∀ i < s.cur.val, t.readFb i = s.readFb i

/-- Parsers that agree give the same result for the same byte, and agree afterwards (R149). -/
theorem ParserAgree.parseByte {s t : State} (h : ParserAgree s t) (b : Byte) :
    (parseByte b t).2 = (parseByte b s).2 ∧ ParserAgree (parseByte b s).1 (parseByte b t).1 := by
  have hcur := h.cur
  rcases (by omega : s.cur.val = 0 ∨ s.cur.val = 1 ∨ (2 ≤ s.cur.val ∧ s.cur.val < 12) ∨ s.cur.val = 12) with
    h0 | h1 | ⟨h2, h12⟩ | h12
  · rw [parseByte_first b s h0, parseByte_first b t (by rw [hcur, h0])]
    split
    · refine ⟨rfl, h.stray, rfl, fun i hi => ?_⟩
      have hi : i < 1 := hi
      simp only [State.readFb_congr _ _ (State.setCur_fb _ _), State.readFb_writeFb]
      rw [if_pos (by omega), if_pos (by omega)]
    · exact ⟨rfl, h⟩
  · rw [parseByte_second b s h1, parseByte_second b t (by rw [hcur, h1]), h.stray]
    split
    · refine ⟨rfl, h.stray, rfl, fun i hi => ?_⟩
      have hi : i < 2 := hi
      simp only [State.readFb_congr _ _ (State.setCur_fb _ _), State.readFb_writeFb]
      split
      · rfl
      · exact h.body i (by omega)
    · split
      · exact ⟨rfl, h.stray, rfl, fun i hi => absurd hi (Nat.not_lt_zero _)⟩
      · exact ⟨rfl, h⟩
  · rw [parseByte_body b s h2 h12, parseByte_body b t (by rw [hcur]; exact h2) (by rw [hcur]; exact h12)]
    refine ⟨rfl, h.stray, by simp [hcur], fun i hi => ?_⟩
    have hi : i < s.cur.val + 1 := hi
    simp only [State.readFb_congr _ _ (State.setCur_fb _ _), State.readFb_writeFb, hcur]
    split
    · rfl
    · exact h.body i (by omega)
  · rw [parseByte_last b s h12, parseByte_last b t (by rw [hcur, h12])]
    have hc : ∀ i < 13, t.completed b i = s.completed b i := fun i hi => by
      simp only [State.completed]
      split
      · rfl
      · exact h.body i (by omega)
    refine ⟨?_, h.stray, rfl, fun i hi => absurd hi (Nat.not_lt_zero _)⟩
    simp only [accepts_congr _ _ hc, h.body 6 (by omega), h.body 7 (by omega)]

/-- Parsers that agree give the same results for the same bytes, and agree afterwards (R149). -/
theorem ParserAgree.feed {s t : State} (h : ParserAgree s t) (bs : List Byte) :
    (feed bs t).2 = (feed bs s).2 ∧ ParserAgree (feed bs s).1 (feed bs t).1 := by
  induction bs generalizing s t with
  | nil => exact ⟨rfl, h⟩
  | cons b bs ih =>
    obtain ⟨hr, ha⟩ := h.parseByte b
    obtain ⟨hrs, ha'⟩ := ih ha
    exact ⟨by simp only [feed_cons, hr, hrs], ha'⟩

/-! ## The invariants -/

/-- ParseByte keeps the invariants (R35). -/
theorem State.Inv.parseByte {s : State} (h : s.Inv) (b : Byte) : (parseByte b s).1.Inv := by
  -- storing a byte at `cur` and moving to a cursor at which the header and the body are written keeps them
  have store : ∀ (i : Nat) (c : Fin 13), i < 13 → s.cur.val = i → (c.val = 0 ∨ c.val = i + 1) →
      (i < 2 → b = HEAD) → ((s.writeFb i b).setCur c).Inv := by
    intro i c hi hs hc hb
    constructor
    · exact h.count_le
    · exact h.rd_lt
    · exact h.wr_lt
    · exact h.wr_eq
    · intro h1
      have h1 : 1 ≤ c.val := h1
      simp only [State.setCur_fb, State.writeFb_fb, Memory.lookup_write]
      split
      · rename_i h0; rw [hb (by omega)]
      · exact h.header0 (by omega)
    · intro h1
      have h1 : 2 ≤ c.val := h1
      simp only [State.setCur_fb, State.writeFb_fb, Memory.lookup_write]
      split
      · rename_i h0; rw [hb (by omega)]
      · exact h.header1 (by omega)
    · exact h.rb_wf
    · exact Memory.write_wf _ _ _ h.fb_wf
    · exact h.rb_bound
    · exact Memory.write_bound _ _ _ _ hi h.fb_bound
    · exact h.live_written
    · intro j hj
      have hj : j < c.val := hj
      simp only [State.setCur_fb, State.writeFb_fb, Memory.lookup_write]
      split
      · rfl
      · exact h.body_written j (by omega)
  have restart : (s.setCur 0).Inv := by
    constructor
    · exact h.count_le
    · exact h.rd_lt
    · exact h.wr_lt
    · exact h.wr_eq
    · intro h1; exact absurd h1 (by simp)
    · intro h1; exact absurd h1 (by simp)
    · exact h.rb_wf
    · exact h.fb_wf
    · exact h.rb_bound
    · exact h.fb_bound
    · exact h.live_written
    · intro j hj; exact absurd hj (Nat.not_lt_zero _)
  rcases (by omega : s.cur.val = 0 ∨ s.cur.val = 1 ∨ (2 ≤ s.cur.val ∧ s.cur.val < 12) ∨ s.cur.val = 12) with
    h0 | h1 | ⟨h2, h12⟩ | h12
  · rw [parseByte_first b s h0]
    split
    · exact store 0 1 (by omega) h0 (Or.inr rfl) fun _ => by assumption
    · exact h
  · rw [parseByte_second b s h1]
    split
    · exact store 1 2 (by omega) h1 (Or.inr rfl) fun _ => by assumption
    · split
      · exact restart
      · exact h
  · rw [parseByte_body b s h2 h12]
    exact store _ _ (by omega) rfl (Or.inr rfl) fun hlt => absurd hlt (by omega)
  · rw [parseByte_last b s h12]
    exact store 12 0 (by omega) h12 (Or.inl rfl) fun hlt => absurd hlt (by omega)

/-- Bytes fed to the parser keep the invariants. -/
theorem State.Inv.feed {s : State} (h : s.Inv) (bs : List Byte) : (feed bs s).1.Inv := by
  induction bs generalizing s with
  | nil => exact h
  | cons b bs ih => exact ih (h.parseByte b)

end Sys2Proof.Machine
end

