-- ==== Sys2Proof/Laws/PerInstr.lean ====
section
/-! SUPPORT. The per-instruction family `OpcodeField`: the words an instruction is encoded as carry the opcode that 30_encoding.md R86 gives it, zeros in every field R87 marks as ignored (R90), and the direction of a wire-frame row (R81, R82). -/

namespace Sys2Proof.Laws.OpcodeField

/-- The opcode of R86; the two wire-frame rows have none. -/
def opcode : Instr → Option (BitVec 4)
  | .push _ => some 0x1
  | .pushc _ => some 0x2
  | .pop => some 0x3
  | .peek _ => some 0x4
  | .reset => some 0x5
  | .count => some 0x6
  | .isEmpty => some 0x7
  | .isFull => some 0x8
  | .dstep => some 0x9
  | .build _ _ => some 0xA
  | .checksum _ => some 0xB
  | .frameTx _ _ => none
  | .frameRx _ => none

/-- The direction in which a wire-frame row travels (R84). -/
def direction : Instr → Option Direction
  | .frameTx _ _ => some .outbound
  | .frameRx _ => some .inbound
  | .push _ | .pushc _ | .pop | .peek _ | .reset | .count | .isEmpty | .isFull | .dstep | .build _ _ | .checksum _ => none

/-- The command ignores `cw[15:8]` (R87). -/
def ignoresA : Instr → Bool
  | .peek _ | .build _ _ => false
  | .push _ | .pushc _ | .pop | .reset | .count | .isEmpty | .isFull | .dstep | .checksum _ => true
  | .frameTx _ _ | .frameRx _ => false

/-- The words of an instruction carry its opcode, zeros in an ignored `a`, and its direction. -/
def Statement (i : Instr) : Prop :=
  match encode i with
  | .port cw _ => opcode i = some (opField cw) ∧ direction i = none ∧ (ignoresA i = true → aField cw = 0)
  | .wire d _ => opcode i = none ∧ direction i = some d

/-- A command word laid out by fields meets the statement. -/
theorem of_word {i : Instr} (op : BitVec 4) (a b : Byte) (fin : FrameWord) (h : encode i = .port (op ++ a ++ b) fin)
    (ho : opcode i = some op) (hd : direction i = none) (ha : ignoresA i = true → a = 0) : Statement i := by
  unfold Statement
  rw [h]
  exact ⟨by rw [ho, opField_append], hd, fun hx => by rw [aField_append, ha hx]⟩

theorem push (element : Byte) : Statement (.push element) := of_word _ _ _ _ rfl rfl rfl fun _ => rfl
theorem pushc (element : Byte) : Statement (.pushc element) := of_word _ _ _ _ rfl rfl rfl fun _ => rfl
theorem pop : Statement .pop := of_word _ _ _ _ rfl rfl rfl fun _ => rfl
theorem peek (idx : BitVec 16) : Statement (.peek idx) := of_word _ _ _ _ rfl rfl rfl fun h => nomatch h
theorem reset : Statement .reset := of_word _ _ _ _ rfl rfl rfl fun _ => rfl
theorem count : Statement .count := of_word _ _ _ _ rfl rfl rfl fun _ => rfl
theorem isEmpty : Statement .isEmpty := of_word _ _ _ _ rfl rfl rfl fun _ => rfl
theorem isFull : Statement .isFull := of_word _ _ _ _ rfl rfl rfl fun _ => rfl
theorem dstep : Statement .dstep := of_word _ _ _ _ rfl rfl rfl fun _ => rfl
theorem build (address command : Byte) : Statement (.build address command) :=
  of_word _ _ _ _ rfl rfl rfl fun h => nomatch h
theorem checksum (frame : Frame) : Statement (.checksum frame) := of_word _ _ _ _ rfl rfl rfl fun _ => rfl
theorem frameTx (address command : Byte) : Statement (.frameTx address command) := ⟨rfl, rfl⟩
theorem frameRx (frame : Frame) : Statement (.frameRx frame) := ⟨rfl, rfl⟩

end Sys2Proof.Laws.OpcodeField
end

