-- ==== Sys2Proof/Laws/Receive.lean ====
section
/-! SUPPORT. What taking bytes off the line can do: the cases of an insertion and of a DSTEP, and that a run keeps whatever insertions, DSTEPs and responses keep (00_scope.md R12, 41_frame_parser.md R147). -/

namespace Sys2Proof.Machine

/-! ## One outcome after another -/

@[simp] theorem andThen_next (t : State) (k : State → Outcome) : andThen (.next t) k = k t := rfl

theorem andThen_eq_next (o : Outcome) (k : State → Outcome) (u : State) :
    andThen o k = .next u ↔ ∃ t, o = .next t ∧ k t = .next u := by
  cases o <;> simp [andThen]

/-! ## The cases of the two commands -/

/-- Everything an insertion can do (R110, R111). -/
theorem execInsert_cases (b : Byte) (s : State) :
    (s.count = s.cap ∧ s.params.pushPolicy = .dropNewest ∧ execInsert b s = .next (s.respond (.flag false))) ∨
    (s.count = s.cap ∧ s.params.pushPolicy = .dropOldest ∧
      execInsert b s = .next ((s.removeOldest.insert b).respond (.flag true))) ∨
    (s.count ≠ s.cap ∧ execInsert b s = .next ((s.insert b).respond (.flag true))) := by
  by_cases h : s.count = s.cap <;> cases hp : s.params.pushPolicy <;>
    simp [execInsert, execPush, execPushc, State.isFull, h, hp]

/-- Everything a DSTEP can do (R147). -/
theorem execDstep_cases (s : State) :
    (s.count = 0 ∧ execDstep s = .next (s.respond (.flag false))) ∨
    (s.count ≠ 0 ∧ execDstep s = .next ((parseByte (s.readRb s.rd) s.removeOldest).1.respond
      (deliver (parseByte (s.readRb s.rd) s.removeOldest).2))) := by
  by_cases h : s.count = 0 <;> simp [execDstep, State.isEmpty, h]

/-- After an insertion, whatever its outcome, the ring holds a byte, so that the DSTEP behind it consumes one. -/
theorem execInsert_next (b : Byte) (s : State) : ∃ t, execInsert b s = .next t ∧ t.count ≠ 0 := by
  have := s.cap_pos
  rcases execInsert_cases b s with ⟨hc, _, h⟩ | ⟨_, _, h⟩ | ⟨_, h⟩
  · exact ⟨_, h, by show s.count ≠ 0; omega⟩
  · exact ⟨_, h, Nat.succ_ne_zero _⟩
  · exact ⟨_, h, Nat.succ_ne_zero _⟩

/-- A byte off the line is one insertion and one DSTEP that consumes a byte. -/
theorem receiveByte_next (b : Byte) (s : State) :
    ∃ t u, execInsert b s = .next t ∧ t.count ≠ 0 ∧ execDstep t = .next u ∧ receiveByte b s = .next u := by
  obtain ⟨t, ht, hc⟩ := execInsert_next b s
  rcases execDstep_cases t with ⟨h0, _⟩ | ⟨_, hd⟩
  · exact absurd h0 hc
  · exact ⟨t, _, ht, hc, hd, by rw [receiveByte, ht, andThen_next, hd]⟩

/-! ## Runs -/

/-- Every run completes (R190). -/
theorem receive_next (bs : List Byte) (s : State) : ∃ t, receive bs s = .next t := by
  induction bs generalizing s with
  | nil => exact ⟨s, rfl⟩
  | cons b bs ih =>
    obtain ⟨_, t, _, _, _, ht⟩ := receiveByte_next b s
    obtain ⟨u, hu⟩ := ih t
    exact ⟨_, by rw [receive, ht, andThen_next, hu, andThen_next]⟩

/-- Keeping a response is at most putting one on the ports. -/
theorem keepResult_cases (o : Option Response) (s : State) : keepResult o s = s ∨ ∃ r, keepResult o s = s.respond r := by
  cases o with
  | none => exact Or.inl rfl
  | some r =>
    by_cases h : r.rv = true
    · exact Or.inr ⟨r, by simp [keepResult, h]⟩
    · exact Or.inl (by simp [keepResult, h])

/-- What insertions, DSTEPs and responses keep, a run keeps. -/
theorem receive_keeps {P : State → Prop} (insert : ∀ b s t, P s → execInsert b s = .next t → P t)
    (dstep : ∀ s t, P s → execDstep s = .next t → P t) (respond : ∀ s r, P s → P (s.respond r)) :
    ∀ (bs : List Byte) (s u : State), P s → receive bs s = .next u → P u := by
  intro bs
  induction bs with
  | nil => intro s u hs h; cases h; exact hs
  | cons b bs ih =>
    intro s u hs h
    obtain ⟨t, v, ht, _, hd, hv⟩ := receiveByte_next b s
    rw [receive, hv, andThen_next, andThen_eq_next] at h
    obtain ⟨w, hw, hu⟩ := h
    have pw := ih v w (dstep t v (insert b s t hs ht) hd) hw
    cases hu
    rcases keepResult_cases v.resp w with h | ⟨r, h⟩ <;> rw [h]
    · exact pw
    · exact respond w r pw

/-! ## What a run leaves alone, and what it keeps -/

/-- A run writes neither the parameters, DOUT, the agents' queues, `rst` nor the model's counters. -/
theorem receive_outside (bs : List Byte) (s u : State) (h : receive bs s = .next u) :
    u.params = s.params ∧ u.producer = s.producer ∧ u.consumer = s.consumer ∧ u.rst = s.rst ∧ u.turn = s.turn ∧
      u.resets = s.resets ∧ u.served = s.served ∧ u.dout = s.dout ∧ u.doutDefined = s.doutDefined := by
  refine receive_keeps (P := fun u => u.params = s.params ∧ u.producer = s.producer ∧ u.consumer = s.consumer ∧
    u.rst = s.rst ∧ u.turn = s.turn ∧ u.resets = s.resets ∧ u.served = s.served ∧ u.dout = s.dout ∧
    u.doutDefined = s.doutDefined) ?_ ?_ ?_ bs s u ⟨rfl, rfl, rfl, rfl, rfl, rfl, rfl, rfl, rfl⟩ h
  · intro b v w hv hw
    rcases execInsert_cases b v with ⟨_, _, h⟩ | ⟨_, _, h⟩ | ⟨_, h⟩ <;> (rw [h] at hw; cases hw; simpa using hv)
  · intro v w hv hw
    rcases execDstep_cases v with ⟨_, h⟩ | ⟨_, h⟩ <;> (rw [h] at hw; cases hw)
    · simpa using hv
    · rw [parseByte_frame]; simpa using hv
  · intro v r hv; simpa using hv

/-- An insertion keeps the invariants. -/
theorem State.Inv.execInsert {s t : State} (h : s.Inv) (b : Byte) (ht : execInsert b s = .next t) : t.Inv := by
  have hle := h.count_le
  have hpos := s.cap_pos
  rcases execInsert_cases b s with ⟨_, _, e⟩ | ⟨hc, _, e⟩ | ⟨hc, e⟩ <;> (rw [e] at ht; cases ht)
  · exact h.respond _
  · exact ((h.removeOldest (by omega)).insert (by show s.count - 1 < s.cap; omega) b).respond _
  · exact (h.insert (by omega) b).respond _

/-- A DSTEP keeps the invariants. -/
theorem State.Inv.execDstep {s t : State} (h : s.Inv) (ht : execDstep s = .next t) : t.Inv := by
  rcases execDstep_cases s with ⟨_, e⟩ | ⟨hc, e⟩ <;> (rw [e] at ht; cases ht)
  · exact h.respond _
  · exact ((h.removeOldest hc).parseByte _).respond _

/-- A run keeps the invariants. -/
theorem State.Inv.receive {s u : State} (h : s.Inv) (bs : List Byte) (hu : receive bs s = .next u) : u.Inv :=
  receive_keeps (P := State.Inv) (fun b _ _ hv => hv.execInsert b) (fun _ _ hv => hv.execDstep)
    (fun _ r hv => hv.respond r) bs s u h hu

end Sys2Proof.Machine
end

