-- ==== Sys2Proof/Laws/Step.lean ====
section
/-! SUPPORT. What a meaning and a step can do, said once: the frame of exec on everything outside the block, the words of each request, and the cases of a step. -/

namespace Sys2Proof.Machine

/-! ## Meanings and the outside world -/

/-- No meaning touches the parameters, the agents' queues, `rst` or the model's counters. -/
theorem exec_outside (i : Instr) (s t : State) (h : exec i s = .next t) :
    t.params = s.params ∧ t.producer = s.producer ∧ t.consumer = s.consumer ∧ t.rst = s.rst ∧ t.turn = s.turn ∧
      t.resets = s.resets ∧ t.served = s.served := by
  cases i
  case dstep =>
    simp only [exec, execDstep] at h
    split at h
    · cases h; simp
    · cases h
      simp only [State.respond_params, State.respond_producer, State.respond_consumer, State.respond_rst,
        State.respond_turn, State.respond_resets, State.respond_served]
      rw [parseByte_frame]; simp
  case frameRx f =>
    obtain ⟨h1, h2, h3, h4, h5, h6, h7, _⟩ := receive_outside _ _ _ h
    exact ⟨h1, h2, h3, h4, h5, h6, h7⟩
  all_goals
    simp only [exec, execPush, execPushc, execPop, execPeek, execReset, execCount, execIsEmpty, execIsFull, execBuild,
      execFrameTx, execChecksum] at h
    try split at h
    all_goals (cases h; simp)

/-- Nor does the machine touch them on words that are no instruction. -/
theorem execUndecoded_outside (e : DecodeError) (s t : State) (h : execUndecoded e s = .next t) :
    t.params = s.params ∧ t.producer = s.producer ∧ t.consumer = s.consumer ∧ t.rst = s.rst ∧ t.turn = s.turn := by
  cases e <;> simp only [execUndecoded, execReserved] at h
  · cases h; simp
  · cases h
  · obtain ⟨h1, h2, h3, h4, h5, _⟩ := receive_outside _ _ _ h
    exact ⟨h1, h2, h3, h4, h5⟩

/-- The words of any request leave the outside world alone. -/
theorem runWords_outside (w : Transaction) (s t : State) (h : runWords w s = .next t) :
    t.params = s.params ∧ t.producer = s.producer ∧ t.consumer = s.consumer ∧ t.rst = s.rst ∧ t.turn = s.turn := by
  unfold runWords at h
  split at h
  · obtain ⟨h1, h2, h3, h4, h5, _⟩ := exec_outside _ _ _ h
    exact ⟨h1, h2, h3, h4, h5⟩
  · exact execUndecoded_outside _ _ _ h

/-! ## Requests -/

/-- A DRAIN presents a DSTEP (R150). -/
theorem decode_drain (p : Params) : decode (Request.drain.words p) = .ok .dstep := by
  simp only [Request.words, encode, decode, decodeCommand, commandWord, opField_append]; rfl

/-- An arriving byte presents its policy's insertion command (R12). -/
theorem decode_arrival (p : Params) (b : Byte) :
    decode ((Request.arrival b).words p) = .ok (insertCommand p.pushPolicy b) := by
  cases h : p.pushPolicy <;>
    simp only [Request.words, insertCommand, h, encode, decode, decodeCommand, commandWord, opField_append,
      bField_append] <;> rfl

/-- A served request is gone, unless it is a DRAIN that continues (R150). -/
theorem remaining_cases (q : Request) (rest : List Request) (t : State) :
    remaining q rest t = rest ∨ (q = .drain ∧ remaining q rest t = q :: rest) := by
  cases q <;> simp [remaining]

/-! ## The step -/

/-- With nothing pending a step changes nothing (R202). -/
theorem step_idle (s : State) (hr : s.rst = false) (hp : s.producer = []) (hc : s.consumer = []) :
    step s = .next s := by
  simp [step, State.fetch, State.nextAgent, hr, hp, hc]

/-- An asserted `rst` is served first (R220). -/
theorem step_hardwareReset (s : State) (hr : s.rst = true) : step s = .next s.hardwareReset := by
  simp [step, State.fetch, hr]

/-- Otherwise a step serves the next agent's first request. -/
theorem step_serve (s : State) (a : Agent) (q : Request) (rest : List Request) (hr : s.rst = false)
    (hn : s.nextAgent = some a) (hq : s.queue a = q :: rest) : step s = serve a q rest s := by
  simp [step, State.fetch, hr, hn, hq]

/-- An agent is next exactly when it has a request. -/
theorem State.nextAgent_cases (s : State) :
    (s.producer = [] ∧ s.consumer = []) ∨ ∃ a q rest, s.nextAgent = some a ∧ s.queue a = q :: rest := by
  rcases hp : s.producer with _ | ⟨p, ps⟩ <;> rcases hc : s.consumer with _ | ⟨c, cs⟩
  · exact Or.inl ⟨rfl, rfl⟩
  · exact Or.inr ⟨.consumer, c, cs, by simp [State.nextAgent, hp, hc], hc⟩
  · exact Or.inr ⟨.producer, p, ps, by simp [State.nextAgent, hp, hc], hp⟩
  · right
    by_cases h : Config.producerFirst s.turn = true
    · exact ⟨.producer, p, ps, by simp [State.nextAgent, hp, hc, h], hp⟩
    · exact ⟨.consumer, c, cs, by simp [State.nextAgent, hp, hc, h], hc⟩

/-- Everything a step that answers a next state can have done. -/
theorem step_cases (s u : State) (h : step s = .next u) :
    (s.rst = true ∧ u = s.hardwareReset) ∨
    (s.rst = false ∧ s.producer = [] ∧ s.consumer = [] ∧ u = s) ∨
    (s.rst = false ∧ ∃ a q rest t, s.nextAgent = some a ∧ s.queue a = q :: rest ∧
      runWords (q.words s.params) s = .next t ∧ u = retire a q rest t) := by
  cases hr : s.rst with
  | true => rw [step_hardwareReset s hr] at h; cases h; exact Or.inl ⟨rfl, rfl⟩
  | false =>
    rcases s.nextAgent_cases with ⟨hp, hc⟩ | ⟨a, q, rest, hn, hq⟩
    · rw [step_idle s hr hp hc] at h; cases h; exact Or.inr (Or.inl ⟨rfl, hp, hc, rfl⟩)
    · rw [step_serve s a q rest hr hn hq] at h
      unfold serve at h
      cases ht : runWords (q.words s.params) s with
      | next t =>
        rw [ht] at h; cases h
        exact Or.inr (Or.inr ⟨rfl, a, q, rest, t, hn, hq, ht, rfl⟩)
      | fault r => nomatch r
      | refused r => rw [ht] at h; cases h

end Sys2Proof.Machine
end

