-- ==== Sys2Proof/Tests/Slice0.lean ====
section
/-! SUPPORT. Tests against spec/ (95_test_vectors.md, the syntax table R93, the opcode table), and a witness for the hypotheses of each statement. Each expected value is the spec's own; its place there stands in the comment. -/

namespace Sys2Proof.Tests

open Sys2Proof Sys2Proof.Machine Sys2Proof.Config

/-! ## Small states -/

/-- The capacity 4 of the vectors RV1 to RV33. -/
def four : Capacity := ⟨4, by decide⟩

/-- Bytes in the cells 0, 1, 2, ... of a store. -/
def cells (bs : List Byte) : Memory := bs.zipIdx.map fun c => (c.2, c.1)

/-- A ring buffer of capacity 4, written `rd, wr, count, RB[0] ...` as in section 2 of the vectors. -/
def ring (rd wr count : Nat) (bs : List Byte) : State :=
  { State.reset with params := { Params.atReset with capacity := four }, rd := rd, wr := wr, count := count, rb := cells bs }

/-- A ring of capacity 4 that holds the one byte `b`, and a parser with `bs` below its cursor. -/
def parsing (cur : Fin 13) (bs : List Byte) (b : Byte) : State :=
  { ring 0 1 1 [b] with cur := cur, fb := cells bs }

/-- RV1: after hardware reset. -/
def empty4 : State := ring 0 0 0 []
/-- RV8: three elements held. -/
def three4 : State := ring 0 3 3 [0x11, 0x22, 0x33]
/-- RV11: full. -/
def full4 : State := ring 0 0 4 [0x11, 0x22, 0x33, 0x44]
/-- RV16: full, the indices moved by one. -/
def moved4 : State := ring 1 1 4 [0x55, 0x22, 0x33, 0x44]

/-- F, the frame of `BUILD 05, 02`. -/
def frameF : Frame := #v[0x7B, 0x7B, 0x09, 0x05, 0x03, 0x01, 0x05, 0x00, 0x02, 0x00, 0x09, 0x7D, 0x7D]
/-- BV7 with bit 1 of byte 2 flipped (PV10). -/
def framePV10 : Frame := #v[0x7B, 0x7B, 0x0B, 0x12, 0x03, 0x01, 0x12, 0x00, 0x74, 0x00, 0x7F, 0x7D, 0x7D]
/-- A frame whose window leaves it (R183's second example). -/
def frameOob : Frame := #v[0x7B, 0x7B, 0x0D, 0x00, 0x00, 0x00, 0x00, 0x00, 0x00, 0x00, 0x00, 0x00, 0x00]

/-- Whether an outcome is a given next state. -/
def nextIs (o : Outcome) (t : State) : Bool :=
  match o with
  | .next u => u = t
  | .fault _ => false
  | .refused _ => false

/-- What an outcome's next state shows. -/
def shown {α : Type} (o : Outcome) (f : State → α) : Option α :=
  match o with
  | .next u => some (f u)
  | .fault _ => none
  | .refused _ => none

/-! ## Well-formedness -/

/-- R82 (a): a run without its first header byte is refused. -/
theorem test_wellFormed_refuses_bad_byte0 : Instr.wellFormed (.frameRx (frameF.set 0 0x7A)) = false := by decide
/-- R82 (a): a run without its second header byte is refused. -/
theorem test_wellFormed_refuses_bad_byte1 : Instr.wellFormed (.frameRx (frameF.set 1 0x7A)) = false := by decide
/-- F is a FRAME_RX run (R82). -/
theorem test_wellFormed_takes_F : Instr.wellFormed (.frameRx frameF) = true := by decide

/-! ## Decoding: words written out from R85 to R87, R93 and section 6 of the vectors -/

/-- RV6, DV3. -/
theorem test_decode_push : decodeTableWord 20 0b00010000000000010001 = some (.push 0x11) ∧
    decodeTableWord 20 0x1AB11 = some (.push 0x11) := by decide
/-- RV16. -/
theorem test_decode_pushc : decodeTableWord 20 0b00100000000001010101 = some (.pushc 0x55) := by decide
/-- RV4, DV4. -/
theorem test_decode_pop : decodeTableWord 20 0x30000 = some .pop ∧ decodeTableWord 20 0x3FFFF = some .pop := by decide
/-- DV5, RV22. -/
theorem test_decode_peek : decodeTableWord 20 0b01000000000100000000 = some (.peek 256) ∧
    decodeTableWord 20 0x4FFFF = some (.peek 0xFFFF) := by decide
/-- RV27. -/
theorem test_decode_reset : decodeTableWord 20 0x50000 = some .reset := by decide
/-- RV3. -/
theorem test_decode_count : decodeTableWord 20 0x60000 = some .count := by decide
/-- RV1. -/
theorem test_decode_isEmpty : decodeTableWord 20 0x70000 = some .isEmpty := by decide
/-- RV2. -/
theorem test_decode_isFull : decodeTableWord 20 0x80000 = some .isFull := by decide
/-- DV8. -/
theorem test_decode_dstep : decodeTableWord 20 0x9ABCD = some .dstep := by decide
/-- DV6, DV7: the address comes first. -/
theorem test_decode_build : decodeTableWord 20 0xA0502 = some (.build 0x05 0x02) ∧
    decodeTableWord 20 0xA0205 = some (.build 0x02 0x05) := by decide
/-- R93, R183: the frame on `fin`, `b0` in `fin[7:0]`; section 6 gives F on `fin`. -/
theorem test_decode_checksum :
    decodeCommand 0xB0000 0x7D7D0900020005010305097B7B = .ok (.checksum frameF) := rfl
/-- R81, DV6's `fout`; and the same frame written byte 0 leftmost, as the table writes it. -/
theorem test_decode_frameTx : decodeTableWord 104 0x7D7D0900020005010305097B7B = some (.frameTx 0x05 0x02) ∧
    decodeTableWord 104 0x7B7B0905030105000200097D7D = some (.frameTx 0x05 0x02) := by decide
/-- PV15, a run that is accepted and is not the pattern of R81. -/
theorem test_decode_frameRx : decodeTableWord 104 0x7B7B09210000215A0000530000 =
    some (.frameRx #v[0x7B, 0x7B, 0x09, 0x21, 0x00, 0x00, 0x21, 0x5A, 0x00, 0x00, 0x53, 0x00, 0x00]) := by decide
/-- DV1, DV2. -/
theorem test_decode_reserved : decodeTableWord 20 0x00000 = none ∧ decodeTableWord 20 0xC1234 = none ∧
    decodeTableWord 20 0xD0000 = none ∧ decodeTableWord 20 0xE00FF = none ∧ decodeTableWord 20 0xFFFFF = none := by
  decide

/-! ## Single commands -/

/-- RV11: `wr` wraps 3 to 0. -/
theorem test_push_wraps : nextIs (exec (.push 0x44) three4)
    { ring 0 0 4 [0x11, 0x22, 0x33, 0x44] with resp := some ⟨true, none, false, none, none, none⟩ } = true := by decide
/-- RV14: on a full buffer nothing changes. -/
theorem test_push_full : nextIs (exec (.push 0x55) full4)
    { full4 with resp := some ⟨false, none, false, none, none, none⟩ } = true := by decide
/-- RV16: full, the oldest is discarded. -/
theorem test_pushc_full : nextIs (exec (.pushc 0x55) full4)
    { moved4 with resp := some ⟨true, none, false, none, none, none⟩ } = true := by decide
/-- RV25: not full, as PUSH. -/
theorem test_pushc_room : nextIs (exec (.pushc 0x66) (ring 3 1 2 [0x55, 0x22, 0x33, 0x44]))
    { ring 3 2 3 [0x55, 0x66, 0x33, 0x44] with resp := some ⟨true, none, false, none, none, none⟩ } = true := by decide
/-- RV23. -/
theorem test_pop : nextIs (exec .pop moved4)
    { ring 2 1 3 [0x55, 0x22, 0x33, 0x44] with
      dout := 0x22, doutDefined := true, resp := some ⟨true, some 0x0022, false, none, none, none⟩ } = true := by decide
/-- RV30: empty, `val` shows the old DOUT. -/
theorem test_pop_empty : nextIs (exec .pop { empty4 with dout := 0x33, doutDefined := true })
    { empty4 with dout := 0x33, doutDefined := true,
                  resp := some ⟨false, some 0x0033, false, none, none, none⟩ } = true := by decide
/-- RV20: (1+3) mod 4 = 0. -/
theorem test_peek_wraps : nextIs (exec (.peek 3) moved4)
    { moved4 with resp := some ⟨true, some 0x0055, false, none, none, none⟩ } = true := by decide
/-- RV21: the index equals `count`. -/
theorem test_peek_none : nextIs (exec (.peek 4) moved4)
    { moved4 with resp := some ⟨false, none, false, none, none, none⟩ } = true := by decide
/-- RV27, with a frame half assembled (R114, R233). -/
theorem test_reset : nextIs (exec .reset { ring 3 2 3 [0x55, 0x66, 0x33, 0x44] with cur := 2, fb := cells [0x7B, 0x7B] })
    { ring 0 0 0 [0x55, 0x66, 0x33, 0x44] with
      cur := 2, fb := cells [0x7B, 0x7B], resp := some ⟨true, none, false, none, none, none⟩ } = true := by decide
/-- RV13: `count` equals `C`. -/
theorem test_count : nextIs (exec .count full4)
    { full4 with resp := some ⟨true, some 0x0004, false, none, none, none⟩ } = true := by decide
/-- RV1. -/
theorem test_isEmpty : nextIs (exec .isEmpty empty4)
    { empty4 with resp := some ⟨true, some 0x0001, false, none, none, none⟩ } = true := by decide
/-- RV2 and RV12. -/
theorem test_isFull :
    nextIs (exec .isFull empty4) { empty4 with resp := some ⟨true, some 0x0000, false, none, none, none⟩ } = true ∧
    nextIs (exec .isFull full4) { full4 with resp := some ⟨true, some 0x0001, false, none, none, none⟩ } = true := by
  decide
/-- The example of R147: the thirteenth byte of F. -/
theorem test_dstep_completes : nextIs (exec .dstep (parsing 12 (frameF.toList.take 12) 0x7D))
    { parsing 0 frameF.toList 0x7D with
      rd := 1, count := 0, resp := some ⟨true, none, true, some 0x05, some 0x00, none⟩ } = true := by decide
/-- PV20, the byte FF at cursor 1: discarded, and the cursor stays (R142). -/
theorem test_dstep_stray : nextIs (exec .dstep (parsing 1 [0x7B] 0xFF))
    { parsing 1 [0x7B] 0xFF with rd := 1, count := 0, resp := some ⟨true, none, false, none, none, none⟩ } = true := by
  decide
/-- DV6: F on `fout`, as the number of section 6. -/
theorem test_build : nextIs (exec (.build 0x05 0x02) empty4)
    { empty4 with resp := some ⟨true, none, false, none, none, some 0x7D7D0900020005010305097B7B⟩ } = true := by decide
/-- The first example of R183: byte 10 is not read. -/
theorem test_checksum : nextIs (exec (.checksum (frameF.set 10 0x00)) empty4)
    { empty4 with resp := some ⟨true, some 0x0009, false, none, none, none⟩ } = true := by decide
/-- The second example of R183. -/
theorem test_checksum_oob : nextIs (exec (.checksum frameOob) empty4)
    { empty4 with resp := some ⟨false, none, false, none, none, none⟩ } = true := by decide
/-- The example of R173. -/
theorem test_frameTx : nextIs (exec (.frameTx 0x7B 0x7B) empty4)
    { empty4 with resp := some ⟨true, none, false, none, none, some 0x7D7D70007B007B01037B097B7B⟩ } = true := by decide
/-- P2: F through a ring of capacity 4, with the end state the spec gives, accepted with (05, 00). -/
theorem test_frameRx : nextIs (exec (.frameRx frameF) empty4)
    { ring 1 1 0 [0x7D, 0x00, 0x09, 0x7D] with
      fb := cells frameF.toList, resp := some ⟨true, none, true, some 0x05, some 0x00, none⟩ } = true := by decide
/-- PV10: the damaged frame is accepted. PV18: this one is rejected. -/
theorem test_frameRx_verdicts :
    shown (exec (.frameRx framePV10) empty4) (·.resp) = some (some ⟨true, none, true, some 0x12, some 0x00, none⟩) ∧
    shown (exec (.frameRx #v[0x7B, 0x7B, 0, 0, 0, 0, 0x44, 0x55, 0, 0, 0x01, 0, 0]) empty4) (·.resp) =
      some (some ⟨true, none, false, none, none, none⟩) := by decide

/-! ## Single steps -/

/-- RV6 through a step from reset: the table's word runs first. -/
theorem test_step_push : shown (step (State.reset.withFetchWord 20 0x10011)) (fun t => (t.rd, t.wr, t.count, t.rb)) =
    some (0, 1, 1, [(0, 0x11)]) := by decide
/-- FRAME_TX through a step from reset. -/
theorem test_step_frameTx : shown (step (State.reset.withFetchWord 104 0x7B7B0905030105000200097D7D)) (·.resp) =
    some (some ⟨true, none, false, none, none, some 0x7D7D0900020005010305097B7B⟩) := by decide
/-- FRAME_RX through a step from reset (PV15). -/
theorem test_step_frameRx : shown (step (State.reset.withFetchWord 104 0x7B7B09210000215A0000530000)) (·.resp) =
    some (some ⟨true, none, true, some 0x21, some 0x5A, none⟩) := by decide
/-- DV1: a reserved opcode answers `ok = 0`, `rv = 0`. -/
theorem test_step_reserved : shown (step (State.reset.withFetchWord 20 0xC1234)) (fun t => (t.count, t.resp)) =
    some (0, some ⟨false, none, false, none, none, none⟩) := by decide
/-- R220: hardware reset clears the cursor too, and writes no store. -/
theorem test_step_hardwareReset :
    shown (step { moved4 with rst := true, cur := 2, fb := cells [0x7B, 0x7B] }) (fun t => (t.rd, t.wr, t.count, t.cur)) =
      some (0, 0, 0, 0) ∧
    shown (step { moved4 with rst := true, cur := 2, fb := cells [0x7B, 0x7B] }) (fun t => (t.rb, t.fb)) =
      some (cells [0x55, 0x22, 0x33, 0x44], cells [0x7B, 0x7B]) := by decide

/-! ## Witnesses: for each statement, states and operands that meet its hypotheses together -/

/-- Concrete states of the vectors are legal. -/
theorem witness_Inv_three : three4.Inv := by constructor <;> decide
theorem witness_Inv_full : full4.Inv := by constructor <;> decide
theorem witness_Inv_moved : moved4.Inv := by constructor <;> decide
theorem witness_Inv_empty : empty4.Inv := by constructor <;> decide
/-- A parser in the middle of a frame is legal (RegisterWidthsSuffice, QueryResults, RingRefinesBoundedQueue and
FifoOrderAlongAnyRun ask for a legal state only; so do these five). -/
theorem witness_Inv_parsing : (parsing 12 (frameF.toList.take 12) 0x7D).Inv := by constructor <;> decide

theorem witness_DecodeFollowsTheOpcodeMap :
    ((0x0#4 = 0x0#4 ∨ 0xC#4 ≤ 0x0#4) ∧ (0xC#4 = 0x0#4 ∨ 0xC#4 ≤ 0xC#4)) ∧ (0xF#4 = 0x0#4 ∨ 0xC#4 ≤ 0xF#4) := by decide
theorem witness_DecodeOfEncodeIsIdentity : Instr.wellFormed (.frameRx framePV10) = true ∧
    Instr.wellFormed (.peek 0xFFFF) = true := by decide

/-- A PUSH is next, in the consumer's queue. -/
def pushNext : State := three4.present (encode (.push 0x44))
/-- A DRAIN is next. -/
def drainNext : State := { three4 with consumer := [.drain] }
/-- A byte arrives, under the policy DROP_OLDEST, while the buffer is full. -/
def arrivalNext : State :=
  { full4 with params := { full4.params with pushPolicy := .dropOldest }, producer := [.arrival 0x55] }

theorem witness_StepRunsTheDecodedInstruction :
    pushNext.rst = false ∧ pushNext.nextAgent = some .consumer ∧
      pushNext.queue .consumer = [.txn (encode (.push 0x44))] ∧
      decode (Request.words pushNext.params (.txn (encode (.push 0x44)))) = .ok (.push 0x44) ∧
      (exec (.push 0x44) pushNext = .next ((pushNext.insert 0x44).respond (.flag true))) :=
  ⟨rfl, rfl, rfl, rfl, rfl⟩
theorem witness_StepRunsTheDecodedInstruction_drain :
    drainNext.rst = false ∧ drainNext.nextAgent = some .consumer ∧ drainNext.queue .consumer = [.drain] ∧
      decode (Request.words drainNext.params .drain) = .ok .dstep ∧
      ∃ t, exec .dstep drainNext = .next t ∧ t.resp = some ⟨true, none, false, none, none, none⟩ :=
  ⟨rfl, rfl, rfl, rfl, _, rfl, rfl⟩
theorem witness_StepServesOneAgentInItsOrder :
    pushNext.rst = false ∧ (shown (step pushNext) fun t => (t.count, t.consumer)) = some (4, []) := by decide
theorem witness_StepServesOneAgentInItsOrder_producer :
    arrivalNext.rst = false ∧ (shown (step arrivalNext) fun t => (t.rd, t.producer)) = some (1, []) := by decide
theorem witness_ReservedOpcodeChangesNothing :
    (three4.present (.port 0xFFFFF 0)).rst = false ∧ (three4.present (.port 0xFFFFF 0)).nextAgent = some .consumer ∧
      (three4.present (.port 0xFFFFF 0)).queue .consumer = [.txn (.port (0xF#4 ++ 0xFF#8 ++ 0xFF#8) 0)] ∧
      (0xF#4 = 0x0#4 ∨ 0xC#4 ≤ 0xF#4) := by decide
theorem witness_IdleBlockHoldsItsState : three4.rst = false ∧ three4.producer = [] ∧ three4.consumer = [] := by decide
theorem witness_HardwareResetEffect : ({ pushNext with rst := true } : State).rst = true := by decide
theorem witness_FirstResponsesAfterReset : empty4 = { State.reset with params := empty4.params } := by decide
theorem witness_StepNeverStops : (∀ q ∈ arrivalNext.producer, q.Servable) ∧ ∀ q ∈ drainNext.consumer, q.Servable := by
  simp [arrivalNext, drainNext, Request.Servable]
/-- A wire frame that can be served: F, which BUILD emits. -/
theorem witness_StepNeverStops_wire : Request.Servable (.txn (encode (.frameTx 0x05 0x02))) :=
  ⟨0x05, 0x02, by decide⟩
theorem witness_ArrivingByteFollowsThePolicy :
    arrivalNext.rst = false ∧ arrivalNext.nextAgent = some .producer ∧ arrivalNext.queue .producer = [.arrival 0x55] ∧
      shown (exec (if arrivalNext.params.pushPolicy = .dropNewest then .push 0x55 else .pushc 0x55) arrivalNext) (·.rd) =
        some 1 := by decide
theorem witness_ParametersNeverChange : (shown (step pushNext) fun t => t.count) = some 4 := by decide

theorem witness_PushResult : full4.count = full4.cap ∧ three4.count ≠ three4.cap ∧ empty4.count ≠ empty4.cap := by decide
theorem witness_PushcResult : moved4.count = moved4.cap ∧ three4.count ≠ three4.cap := by decide
theorem witness_PopResult : empty4.count = 0 ∧ (parsing 0 [] 0x7B).count ≠ 0 := by decide
theorem witness_PeekResult : moved4.count ≤ (4 : BitVec 16).toNat ∧ (3 : BitVec 16).toNat < moved4.count ∧
    (0 : BitVec 16).toNat < moved4.count := by decide
theorem witness_ReadOnlyCommandsAreIdempotent :
    readOnly (.peek 3) = true ∧ (shown (exec (.peek 3) moved4) fun t => t.count) = some 4 := by decide
/-- Every command of the bounded queue runs from a legal state. -/
theorem witness_RingRefinesBoundedQueue :
    shown (exec (.push 0x44) three4) (·.held) = some [0x11, 0x22, 0x33, 0x44] ∧
    shown (exec (.pushc 0x55) full4) (·.held) = some [0x22, 0x33, 0x44, 0x55] ∧
    shown (exec .pop moved4) (·.held) = some [0x33, 0x44, 0x55] ∧
    shown (exec .dstep moved4) (·.held) = some [0x33, 0x44, 0x55] ∧
    shown (exec .reset moved4) (·.held) = some [] ∧ shown (exec (.peek 3) moved4) (·.count) = some 4 := by decide
theorem witness_PushcKeepsTheMostRecentElements : moved4.Inv ∧ [0x01#8, 0x02#8, 0x03#8, 0x04#8].length = moved4.cap :=
  ⟨witness_Inv_moved, by decide⟩
theorem witness_CapacityProperty :
    empty4.Inv ∧ empty4.count = 0 ∧ [0x01#8, 0x02#8, 0x03#8, 0x04#8].length = empty4.cap :=
  ⟨witness_Inv_empty, by decide, by decide⟩

/-- Both bytes at both cursors of the header search. -/
theorem witness_DstepSearchesForTheHeader :
    ∀ s ∈ [parsing 0 [] 0x7B, parsing 1 [0x7B] 0x7B], s.count ≠ 0 ∧ s.cur.val < 2 ∧ s.readRb s.rd = 0x7B#8 := by decide
theorem witness_DstepSearchesForTheHeader_noise :
    ∀ s ∈ [parsing 0 [] 0xFF, parsing 1 [0x7B] 0xFF], s.count ≠ 0 ∧ s.cur.val < 2 ∧ s.readRb s.rd ≠ 0x7B#8 := by decide
/-- The first and the last cursor of the body. -/
theorem witness_DstepStoresTheBody :
    ∀ s ∈ [parsing 2 [0x7B, 0x7B] 0x09, parsing 11 (frameF.toList.take 11) 0x7D],
      s.count ≠ 0 ∧ 2 ≤ s.cur.val ∧ s.cur.val < 12 := by decide
theorem witness_DstepCompletesTheFrame :
    (parsing 12 (frameF.toList.take 12) 0x7D).count ≠ 0 ∧ (parsing 12 (frameF.toList.take 12) 0x7D).cur.val = 12 ∧
      Accepts ((parsing 12 (frameF.toList.take 12) 0x7D).completed 0x7D) := by decide
theorem witness_DstepCompletesTheFrame_rejected :
    (parsing 12 (frameOob.toList.take 12) 0x00).count ≠ 0 ∧ (parsing 12 (frameOob.toList.take 12) 0x00).cur.val = 12 ∧
      ¬ Accepts ((parsing 12 (frameOob.toList.take 12) 0x00).completed 0x00) := by decide
theorem witness_DstepOnAnEmptyRing : ({ empty4 with cur := 12 } : State).count = 0 := by decide
/-- Two parsers that agree below the cursor and differ in a stale byte above it. -/
theorem witness_ParserDependsOnItsOwnStateOnly :
    (parsing 2 [0x7B, 0x7B, 0x09] 0).params.strayRestart = (parsing 2 [0x7B, 0x7B, 0x55] 0).params.strayRestart ∧
      (parsing 2 [0x7B, 0x7B, 0x09] 0).cur = (parsing 2 [0x7B, 0x7B, 0x55] 0).cur ∧
      ∀ i < 2, (parsing 2 [0x7B, 0x7B, 0x09] 0).readFb i = (parsing 2 [0x7B, 0x7B, 0x55] 0).readFb i := by decide
theorem witness_DstepsFeedTheParser : moved4.Inv ∧ 4 ≤ moved4.count := ⟨witness_Inv_moved, by decide⟩
/-- PV25, with noise before it. -/
theorem witness_AssembledByteSequences :
    empty4.params.strayRestart = false ∧ empty4.cur = 0 ∧ 0x7B#8 ∉ [0x7D#8] ∧ 0x7B#8 ∉ [0xFF#8] ∧
      (frameF.toList.drop 2).length = 11 ∧ frameF.toList = [0x7B#8, 0x7B#8] ++ frameF.toList.drop 2 := by decide
/-- A run that is assembled and rejected. -/
theorem witness_AssembledByteSequences_verdicts : Accepts (byteAt frameF) ∧ ¬ Accepts (byteAt frameOob) := by decide
/-- PV3: F, one byte FF, F again. -/
theorem witness_ResynchronisationOverGarbage :
    empty4.cur = 0 ∧ (∀ g ∈ [([], frameF), ([0xFF#8], frameF)], 0x7B#8 ∉ g.1 ∧ AcceptedFrame g.2) ∧
      0x7B#8 ∉ [0x00#8] := by decide
/-- PV20 after its two first bytes. -/
theorem witness_FrameAfterAStrayHeaderIsLost :
    (parsing 1 [0x7B] 0).params.strayRestart = false ∧ (parsing 1 [0x7B] 0).cur.val = 1 ∧ 0x7B#8 ∉ [0xFF#8] ∧
      AcceptedFrame frameF ∧ frameF[12] ≠ 0x7B#8 := by decide
/-- The first and the last byte of each clause. -/
theorem witness_DamagedWindowByteIsRejected :
    ∀ i ∈ [3, 10, 11, 12], i < 13 ∧ AcceptedFrame frameF ∧ frameF[2] = 0x09#8 ∧ (0x80#8) ≠ 0 ∧ 3 ≤ i := by decide
/-- PV13, whose LEN may be flipped in bit 0 (PV14). -/
theorem witness_FlippedLengthBit_bit0 : ∃ f : Frame, AcceptedFrame f ∧ f[2] = 0x09#8 ∧ 0 < 8 ∧ f[9] = 0x01#8 :=
  ⟨#v[0x7B, 0x7B, 0x09, 0x05, 0x03, 0x01, 0x05, 0x33, 0x02, 0x01, 0x3B, 0x7D, 0x7D], by decide⟩
/-- BV7, whose LEN may be flipped in bit 1 (PV10). -/
theorem witness_FlippedLengthBit_bit1 :
    ∃ f : Frame, AcceptedFrame f ∧ f[2] = 0x09#8 ∧ 1 < 8 ∧ f[10] = f[11] ^^^ 0x02#8 :=
  ⟨framePV10.set 2 0x09, by decide⟩
/-- BV6, whose LEN may be flipped in bit 3 (PV11). -/
theorem witness_FlippedLengthBit_bit3 : ∃ f : Frame, AcceptedFrame f ∧ f[2] = 0x09#8 ∧ 3 < 8 ∧ f[10] = 0x00#8 :=
  ⟨#v[0x7B, 0x7B, 0x09, 0x01, 0x03, 0x01, 0x01, 0x00, 0x0B, 0x00, 0x00, 0x7D, 0x7D], by decide⟩
/-- F, with the last bit, which may not be flipped (PV12). -/
theorem witness_FlippedLengthBit_bit7 : AcceptedFrame frameF ∧ frameF[2] = 0x09#8 ∧ 7 < 8 := by decide
theorem witness_ResultsComeFromCompletedFramesOnly :
    shown (exec .dstep (parsing 12 (frameF.toList.take 12) 0x7D)) (·.resp) =
        some (some ⟨true, none, true, some 0x05, some 0x00, none⟩) ∧
    shown (exec (.frameRx frameF) empty4) (·.resp) =
        some (some ⟨true, none, true, some 0x05, some 0x00, none⟩) := by decide

/-- Each length of the table of R184, the ends of its ranges included. -/
theorem witness_ChecksumForEveryLength :
    ∀ n ∈ [0, 1, 2, 3, 4, 5, 6, 7, 8, 9, 10, 11, 12, 13, 255],
      (frameF.set 2 (BitVec.ofNat 8 n))[2].toNat = n := by decide
theorem witness_ChecksumCommandResult :
    (frameF.set 2 0x0C)[2].toNat ≤ 12 ∧ 12 < (frameF.set 2 0x0D)[2].toNat ∧ 12 < frameOob[2].toNat := by decide
/-- F with bytes 0, 1, 10, 11 and 12 changed. -/
theorem witness_ChecksumReadsTheWindowOnly :
    ∀ i (_ : i < 13), 2 ≤ i → i ≤ max 2 frameF[2].toNat →
      (#v[0, 0, 0x09, 0x05, 0x03, 0x01, 0x05, 0x00, 0x02, 0x00, 0x99, 0, 0] : Frame)[i] = frameF[i] := by decide
theorem witness_ChecksumShiftsByTheDifference :
    ∀ i ∈ [3, 9], i < 13 ∧ 3 ≤ i ∧ i ≤ frameF[2].toNat ∧ chk frameF = some 0x09 := by decide
theorem witness_BuiltFrameRoundTrip : empty4.cur = 0 := by decide
theorem witness_FrameRxResult :
    empty4.Inv ∧ empty4.count = 0 ∧ frameF[0] = 0x7B#8 ∧ frameF[1] = 0x7B#8 ∧ empty4.cur = 0 ∧ Accepts (byteAt frameF) :=
  ⟨witness_Inv_empty, by decide⟩
theorem witness_FrameRxResult_rejected :
    empty4.Inv ∧ empty4.count = 0 ∧ frameOob[0] = 0x7B#8 ∧ frameOob[1] = 0x7B#8 ∧ empty4.cur = 0 ∧
      ¬ Accepts (byteAt frameOob) :=
  ⟨witness_Inv_empty, by decide⟩
/-- FRAME_RX from a full ring under each policy, and from a cursor other than 0: the first byte completes the frame in
progress, and its result is delivered. -/
theorem witness_FrameRxFeedsTheParser : full4.Inv ∧ { full4 with params := { full4.params with pushPolicy := .dropOldest } }.Inv ∧
    full4.backlog [0x55, 0x66] = [0x11, 0x22, 0x33, 0x44, 0x66] ∧
    { full4 with params := { full4.params with pushPolicy := .dropOldest } }.backlog [0x55, 0x66] =
      [0x22, 0x33, 0x44, 0x55, 0x66] :=
  ⟨witness_Inv_full, by constructor <;> decide, by decide, by decide⟩
theorem witness_FrameRxFeedsTheParser_midFrame :
    { empty4 with cur := 12, fb := cells (frameF.toList.take 12) }.Inv ∧
      shown (exec (.frameRx framePV10) { empty4 with cur := 12, fb := cells (frameF.toList.take 12) }) (·.resp) =
        some (some ⟨true, none, true, some 0x05, some 0x00, none⟩) :=
  ⟨by constructor <;> decide, by decide⟩

/-- F in a ring of capacity 16. -/
def holdsF : State := { State.reset with wr := 13, count := 13, rb := cells frameF.toList }
theorem witness_Inv_holdsF : holdsF.Inv := by constructor <;> decide
theorem witness_FrameRxAgreesWithDsteps :
    State.reset.Inv ∧ State.reset.count = 0 ∧ holdsF.Inv ∧ holdsF.held = frameF.toList ∧
      holdsF.params.strayRestart = State.reset.params.strayRestart ∧ holdsF.cur = State.reset.cur ∧
      holdsF.fb = State.reset.fb ∧
      (shown (runInstrs (List.replicate 13 .dstep) holdsF) fun t => (t.count, t.cur)) = some (0, 0) :=
  ⟨by constructor <;> decide, by decide, witness_Inv_holdsF, by decide, by decide, by decide, by decide, rfl⟩
theorem witness_StepKeepsTheInvariants : pushNext.Inv ∧ (shown (step pushNext) fun t => t.count) = some 4 :=
  ⟨by constructor <;> decide, by decide⟩

/-- `three4` with another stale byte in cell 3. -/
def staleThree : State := { three4 with rb := cells [0x11, 0x22, 0x33, 0x99] }
theorem witness_StaleBytesAreUnobservable : three4.Inv ∧ staleThree.Inv ∧ SameLive three4 staleThree ∧ three4 ≠ staleThree :=
  ⟨witness_Inv_three, by constructor <;> decide,
    ⟨rfl, rfl, rfl, rfl, rfl, rfl, by decide, by decide⟩, by decide⟩
theorem witness_WhichCommandWritesWhat :
    shown (exec (.pushc 0x55) full4) (fun t => (t.rd, t.wr)) = some (1, 1) ∧
    shown (exec .pop moved4) (fun t => (t.rd, t.count, t.dout)) = some (2, 3, 0x22) := by decide
theorem witness_RegisterWidthsSuffice : (parsing 12 (frameF.toList.take 12) 0x7D).Inv := witness_Inv_parsing
theorem witness_DrainCycleEnds : drainNext.rst = false ∧ drainNext.producer = [] ∧ drainNext.consumer = [.drain] := by
  decide

end Sys2Proof.Tests
end

/-! # Proofs of 00_scope.md: the agents' requests, runs off the line, and the register widths -/

namespace Sys2Proof.Machine

/-! ## Serving one request -/

/-- The words of an instruction run it. -/
theorem runWords_of_decode {w : Transaction} {i : Instr} (h : decode w = .ok i) (s : State) :
    runWords w s = exec i s := by
  simp only [runWords, h]

/-- A step that serves a request whose instruction completes books the request on the state the instruction answers. -/
theorem step_of_decode {s t : State} {a : Agent} {q : Request} {rest : List Request} {i : Instr}
    (hr : s.rst = false) (hn : s.nextAgent = some a) (hq : s.queue a = q :: rest)
    (hd : decode (q.words s.params) = .ok i) (ht : exec i s = .next t) : step s = .next (retire a q rest t) := by
  rw [step_serve s a q rest hr hn hq, serve, runWords_of_decode hd, ht, retireOutcome]

/-- The insertion command of a policy, as R12 names it. -/
theorem insertCommand_eq_ite (p : PushPolicy) (b : Byte) :
    insertCommand p b = if p = .dropNewest then .push b else .pushc b := by
  cases p <;> rfl

/-- Settles O14: the arriving byte's words decode to its policy's insertion command, and booking it only removes it from
the agent's queue. -/
theorem arrivingByteFollowsThePolicy : Obligations.ArrivingByteFollowsThePolicy := by
  intro s t agent b rest hr hn hq ht
  rw [← insertCommand_eq_ite] at ht
  obtain ⟨_, _, _, _, hturn, _⟩ := exec_outside _ _ _ ht
  rw [step_of_decode hr hn hq (decode_arrival s.params b) ht, ← hturn]
  rfl

/-! ## A run off the line, and the commands it stands for -/

/-- Running a list of commands runs the first and then the others. -/
theorem runInstrs_cons (i : Instr) (is : List Instr) (s : State) :
    runInstrs (i :: is) s = andThen (exec i s) (runInstrs is) := by
  rw [runInstrs]
  cases exec i s <;> rfl

/-- The command that a policy names for an arriving byte inserts it. -/
theorem exec_insertCommand (b : Byte) (s : State) : exec (insertCommand s.params.pushPolicy b) s = execInsert b s := by
  cases h : s.params.pushPolicy <;> simp only [insertCommand, execInsert, h, exec]

/-- The commands of a run are those of its first byte, an insertion and a DSTEP, and then those of the others. -/
theorem receiveCommands_cons (p : Params) (b : Byte) (bs : List Byte) :
    receiveCommands p (b :: bs) = insertCommand p.pushPolicy b :: .dstep :: receiveCommands p bs := rfl

/-- The commands of the first byte do what `receiveByte` does. -/
theorem runInstrs_receiveCommands_cons {b : Byte} {s v : State} (h : receiveByte b s = .next v) (bs : List Byte) :
    runInstrs (receiveCommands s.params (b :: bs)) s = runInstrs (receiveCommands v.params bs) v := by
  obtain ⟨t, ht, hd⟩ := (andThen_eq_next _ _ _).1 h
  have hp : v.params = s.params := by
    rw [← exec_insertCommand] at ht
    exact (exec_outside .dstep t v hd).1.trans (exec_outside _ s t ht).1
  rw [receiveCommands_cons, runInstrs_cons, exec_insertCommand, ht, andThen_next, runInstrs_cons, exec, hd,
    andThen_next, hp]

/-- The words of an inbound run, with or without the header of R82 (a), are received byte by byte. -/
theorem runWords_inbound (f : Frame) (s : State) :
    runWords (.wire .inbound (packFrame f)) s = receive f.toList s := by
  simp only [runWords, decode, decodeInbound, unpackFrame_packFrame]
  by_cases h : f.hasHeader = true <;> simp [h, exec, execFrameRx, execUndecoded]

/-- `t` is `u` but for the response, which is `u`'s unless it is one that delivers a result (entry 14). -/
def SameButResult (u t : State) : Prop :=
  t = { u with resp := t.resp } ∧ (t.resp = u.resp ∨ ∃ r, t.resp = some r ∧ r.rv = true)

theorem SameButResult.refl (u : State) : SameButResult u u := ⟨rfl, Or.inl rfl⟩

/-- Keeping an earlier response changes the response only, and to one that delivers a result. -/
theorem SameButResult.keepResult {u t : State} (h : SameButResult u t) (o : Option Response) :
    SameButResult u (keepResult o t) := by
  obtain ⟨hstate, hresp⟩ := h
  cases o with
  | none => exact ⟨hstate, hresp⟩
  | some r =>
    by_cases hr : r.rv = true
    · rw [Machine.keepResult, if_pos hr]
      exact ⟨by rw [State.respond, hstate], Or.inr ⟨r, rfl, hr⟩⟩
    · rw [Machine.keepResult, if_neg hr]
      exact ⟨hstate, hresp⟩

/-- A run of any length ends where its commands end, but for the response. -/
theorem receive_sameButResult_runInstrs (bs : List Byte) (s : State) :
    ∃ t u, runInstrs (receiveCommands s.params bs) s = .next u ∧ receive bs s = .next t ∧ SameButResult u t := by
  induction bs generalizing s with
  | nil => exact ⟨s, s, rfl, rfl, .refl s⟩
  | cons b bs ih =>
    obtain ⟨_, v, _, _, _, hv⟩ := receiveByte_next b s
    obtain ⟨t, u, hu, ht, h⟩ := ih v
    refine ⟨keepResult v.resp t, u, ?_, ?_, h.keepResult v.resp⟩
    · rw [runInstrs_receiveCommands_cons hv, hu]
    · rw [receive, hv, andThen_next, ht, andThen_next]

/-- Settles O48: FRAME_RX and the words of the run are both `receive`, which runs the commands byte by byte and differs
from them in the response it keeps. -/
theorem inboundRunIsItsCommands : Obligations.InboundRunIsItsCommands := by
  intro f s
  obtain ⟨t, u, hu, ht, hstate, hresp⟩ := receive_sameButResult_runInstrs f.toList s
  exact ⟨t, u, hu, ht, (runWords_inbound f s).trans ht, hstate, hresp⟩

/-! ## The register widths -/

/-- `IW` bits count to the capacity (R6). -/
theorem State.cap_le_two_pow_indexWidth (s : State) : s.cap ≤ 2 ^ s.params.indexWidth :=
  (Nat.le_pow_clog one_lt_two s.cap).trans (Nat.pow_le_pow_right two_pos (le_max_right _ _))

/-- `CW` bits hold the capacity itself (R6). -/
theorem State.cap_lt_two_pow_countWidth (s : State) : s.cap < 2 ^ s.params.countWidth :=
  Nat.le_pow_clog one_lt_two (s.cap + 1)

/-- Settles O54: a legal state keeps `rd` and `wr` below the capacity and `count` at most at it. -/
theorem registerWidthsSuffice : Obligations.RegisterWidthsSuffice := by
  intro s h
  exact ⟨h.rd_lt.trans_le s.cap_le_two_pow_indexWidth, h.wr_lt.trans_le s.cap_le_two_pow_indexWidth,
    h.count_le.trans_lt s.cap_lt_two_pow_countWidth⟩

end Sys2Proof.Machine

/-! # Proofs of 10_state.md: the state after reset, the invariants, what each command writes, and stale bytes -/

namespace Sys2Proof.Machine

/-! ## The state after reset -/

/-- With the four registers at 0, the invariants are the canonical form and the bounds of the byte stores. -/
theorem State.Inv.of_registers_zero {s : State} (hrd : s.rd = 0) (hwr : s.wr = 0) (hcount : s.count = 0)
    (hcur : s.cur = 0) (rb_wf : Memory.wf s.rb) (fb_wf : Memory.wf s.fb) (rb_bound : ∀ c ∈ s.rb, c.1 < s.cap)
    (fb_bound : ∀ c ∈ s.fb, c.1 < Config.FRAME_LEN) : s.Inv where
  count_le := hcount ▸ Nat.zero_le _
  rd_lt := hrd ▸ s.cap_pos
  wr_lt := hwr ▸ s.cap_pos
  wr_eq := by rw [hrd, hwr, hcount, Nat.zero_mod]
  header0 := fun h => by simp [hcur] at h
  header1 := fun h => by simp [hcur] at h
  rb_wf := rb_wf
  fb_wf := fb_wf
  rb_bound := rb_bound
  fb_bound := fb_bound
  live_written := fun k hk => by omega
  body_written := fun i hi => by simp [hcur] at hi

/-- Settles O10: the reset state is written out, its stores are the empty lists, and DOUT is not yet defined. -/
theorem stateAfterReset : Obligations.StateAfterReset :=
  ⟨rfl, rfl, rfl, rfl, Memory.lookup_nil, Memory.lookup_nil, rfl, rfl⟩

/-- Settles O50: the registers are 0 and the byte stores are empty. -/
theorem invariantsHoldAfterReset : Obligations.InvariantsHoldAfterReset :=
  State.Inv.of_registers_zero rfl rfl rfl rfl List.Pairwise.nil List.Pairwise.nil
    (fun _ hc => absurd hc List.not_mem_nil) (fun _ hc => absurd hc List.not_mem_nil)

/-! ## The parameters -/

/-- Booking a request touches the agents' side only. -/
@[simp] theorem retire_params (a : Agent) (q : Request) (rest : List Request) (t : State) :
    (retire a q rest t).params = t.params := by
  cases a <;> rfl

/-- Settles O15: hardware reset, no meaning and no booking writes the parameters. -/
theorem parametersNeverChange : Obligations.ParametersNeverChange := by
  intro s u h
  rcases step_cases s u h with ⟨_, rfl⟩ | ⟨_, _, _, rfl⟩ | ⟨_, a, q, rest, t, _, _, ht, rfl⟩
  · exact s.hardwareReset_params
  · rfl
  · rw [retire_params]
    exact (runWords_outside _ s t ht).1

/-! ## The commands that write the block, case by case -/

theorem execPush_full {s : State} (h : s.count = s.cap) (e : Byte) :
    execPush e s = .next (s.respond (.flag false)) := by
  simp [execPush, State.isFull, h]

theorem execPush_not_full {s : State} (h : s.count ≠ s.cap) (e : Byte) :
    execPush e s = .next ((s.insert e).respond (.flag true)) := by
  simp [execPush, State.isFull, h]

theorem execPushc_full {s : State} (h : s.count = s.cap) (e : Byte) :
    execPushc e s = .next ((s.removeOldest.insert e).respond (.flag true)) := by
  simp [execPushc, State.isFull, h]

theorem execPushc_not_full {s : State} (h : s.count ≠ s.cap) (e : Byte) :
    execPushc e s = .next ((s.insert e).respond (.flag true)) := by
  simp [execPushc, State.isFull, h]

theorem execPop_empty {s : State} (h : s.count = 0) :
    execPop s = .next (s.respond (.value false (s.readDout.setWidth 16))) := by
  simp [execPop, State.isEmpty, h]

/-- A successful POP answers the byte it moves into DOUT (R88, R112). -/
theorem execPop_not_empty {s : State} (h : s.count ≠ 0) :
    execPop s = .next ((s.setDout (s.readRb s.rd)).removeOldest.respond
      (.value true ((s.readRb s.rd).setWidth 16))) := by
  simp [execPop, State.isEmpty, h, State.readDout]

theorem execDstep_empty {s : State} (h : s.count = 0) : execDstep s = .next (s.respond (.flag false)) :=
  ((execDstep_cases s).resolve_right fun hc => hc.1 h).2

theorem execDstep_not_empty {s : State} (h : s.count ≠ 0) :
    execDstep s = .next ((parseByte (s.readRb s.rd) s.removeOldest).1.respond
      (deliver (parseByte (s.readRb s.rd) s.removeOldest).2)) :=
  ((execDstep_cases s).resolve_left fun hc => h hc.1).2

/-! ## States that agree on what can be observed -/

theorem SameLive.refl (s : State) : SameLive s s := ⟨rfl, rfl, rfl, rfl, rfl, rfl, rfl, fun _ _ => rfl⟩

theorem SameLive.cap {s t : State} (h : SameLive s t) : t.cap = s.cap := State.cap_congr s t h.params

/-- They read the same byte at every live index. -/
theorem SameLive.readRb_peekIndex {s t : State} (h : SameLive s t) {k : Nat} (hk : k < s.count) :
    t.readRb (t.peekIndex k) = s.readRb (s.peekIndex k) := by
  have hget : t.held[k]? = s.held[k]? := by rw [h.held]
  rw [State.held_getElem?, State.held_getElem?, h.count, if_pos hk, if_pos hk] at hget
  exact Option.some.inj hget

/-- A read-only command answers and does nothing else, and it answers both states alike. -/
theorem SameLive.exec_readOnly {s t : State} (h : SameLive s t) {i : Instr} (hi : readOnly i = true) :
    ∃ r, exec i s = .next (s.respond r) ∧ exec i t = .next (t.respond r) := by
  cases i with
  | peek idx =>
    by_cases hk : s.count ≤ idx.toNat
    · exact ⟨.flag false, by simp only [exec, execPeek, if_pos hk], by simp only [exec, execPeek, h.count, if_pos hk]⟩
    · refine ⟨.value true ((s.readRb (s.peekIndex idx.toNat)).setWidth 16), ?_, ?_⟩
      · simp only [exec, execPeek, if_neg hk]
      · simp only [exec, execPeek, h.count, if_neg hk, h.readRb_peekIndex (Nat.lt_of_not_le hk)]
  | count => exact ⟨_, rfl, by simp only [exec, execCount, h.count]⟩
  | isEmpty => exact ⟨_, rfl, by simp only [exec, execIsEmpty, State.isEmpty, h.count]⟩
  | isFull => exact ⟨_, rfl, by simp only [exec, execIsFull, State.isFull, h.count, h.cap]⟩
  | build a c => exact ⟨_, rfl, rfl⟩
  | frameTx a c => exact ⟨_, rfl, rfl⟩
  | checksum f =>
    simp only [exec, execChecksum]
    cases chk f with
    | none => exact ⟨_, rfl, rfl⟩
    | some crc => exact ⟨_, rfl, rfl⟩
  | _ => simp [readOnly] at hi

/-! ## What a meaning can do to the block -/

/-- Everything a meaning can do, but for which response it answers: answer only; insert; replace the oldest element; pop
into DOUT; empty the ring; pop into the parser; receive a run. -/
theorem exec_cases (i : Instr) (s t : State) (h : exec i s = .next t) :
    (∃ r, t = s.respond r) ∨
    (∃ e r, (i = .push e ∨ i = .pushc e) ∧ s.count ≠ s.cap ∧ t = (s.insert e).respond r) ∨
    (∃ e r, i = .pushc e ∧ s.count = s.cap ∧ t = (s.removeOldest.insert e).respond r) ∨
    (i = .pop ∧ s.count ≠ 0 ∧ ∃ r, t = (s.setDout (s.readRb s.rd)).removeOldest.respond r) ∨
    (i = .reset ∧ ∃ r, t = (((s.setCount 0).setRd 0).setWr 0).respond r) ∨
    (i = .dstep ∧ s.count ≠ 0 ∧ ∃ r, t = (parseByte (s.readRb s.rd) s.removeOldest).1.respond r) ∨
    ∃ f, i = .frameRx f ∧ receive f.toList s = .next t := by
  by_cases hi : readOnly i = true
  · obtain ⟨r, hr, _⟩ := (SameLive.refl s).exec_readOnly hi
    rw [hr] at h; cases h
    exact .inl ⟨r, rfl⟩
  cases i with
  | push e =>
    simp only [exec] at h
    by_cases hc : s.count = s.cap
    · rw [execPush_full hc] at h; cases h
      exact .inl ⟨_, rfl⟩
    · rw [execPush_not_full hc] at h; cases h
      exact .inr (.inl ⟨e, _, .inl rfl, hc, rfl⟩)
  | pushc e =>
    simp only [exec] at h
    by_cases hc : s.count = s.cap
    · rw [execPushc_full hc] at h; cases h
      exact .inr (.inr (.inl ⟨e, _, rfl, hc, rfl⟩))
    · rw [execPushc_not_full hc] at h; cases h
      exact .inr (.inl ⟨e, _, .inr rfl, hc, rfl⟩)
  | pop =>
    simp only [exec] at h
    by_cases hc : s.count = 0
    · rw [execPop_empty hc] at h; cases h
      exact .inl ⟨_, rfl⟩
    · rw [execPop_not_empty hc] at h; cases h
      exact .inr (.inr (.inr (.inl ⟨rfl, hc, _, rfl⟩)))
  | reset =>
    cases h
    exact .inr (.inr (.inr (.inr (.inl ⟨rfl, _, rfl⟩))))
  | dstep =>
    simp only [exec] at h
    by_cases hc : s.count = 0
    · rw [execDstep_empty hc] at h; cases h
      exact .inl ⟨_, rfl⟩
    · rw [execDstep_not_empty hc] at h; cases h
      exact .inr (.inr (.inr (.inr (.inr (.inl ⟨rfl, hc, _, rfl⟩)))))
  | frameRx f => exact .inr (.inr (.inr (.inr (.inr (.inr ⟨f, rfl, h⟩)))))
  | _ => simp [readOnly] at hi

/-! ## Every step keeps the invariants -/

/-- Replacing the oldest element of a full buffer keeps the invariants (R111). -/
theorem State.Inv.replaceOldest {s : State} (h : s.Inv) (hc : s.count = s.cap) (e : Byte) :
    (s.removeOldest.insert e).Inv := by
  have hpos := s.cap_pos
  have hroom : s.removeOldest.count < s.removeOldest.cap := by
    show s.count - 1 < s.cap
    omega
  exact (h.removeOldest (by omega)).insert hroom e

/-- A meaning keeps the invariants. -/
theorem State.Inv.exec {s t : State} (h : s.Inv) {i : Instr} (ht : exec i s = .next t) : t.Inv := by
  rcases exec_cases i s t ht with ⟨r, rfl⟩ | ⟨e, r, _, hc, rfl⟩ | ⟨e, r, _, hc, rfl⟩ | ⟨_, hc, r, rfl⟩ | ⟨_, r, rfl⟩ |
    ⟨_, hc, r, rfl⟩ | ⟨f, _, hrun⟩
  · exact h.respond r
  · exact (h.insert (Nat.lt_of_le_of_ne h.count_le hc) e).respond r
  · exact (h.replaceOldest hc e).respond r
  · exact ((h.setDout _).removeOldest hc).respond r
  · exact h.empty.respond r
  · exact ((h.removeOldest hc).parseByte _).respond r
  · exact h.receive f.toList hrun

/-- So does the machine on words that are no instruction. -/
theorem State.Inv.execUndecoded {s t : State} (h : s.Inv) {e : DecodeError} (ht : execUndecoded e s = .next t) :
    t.Inv := by
  cases e with
  | reservedOpcode op => cases ht; exact h.respond _
  | noHeader f => exact h.receive f.toList ht
  | notABuiltFrame f => cases ht

theorem State.Inv.runWords {s t : State} (h : s.Inv) {w : Transaction} (ht : runWords w s = .next t) : t.Inv := by
  unfold Machine.runWords at ht
  split at ht
  · exact h.exec ht
  · exact h.execUndecoded ht

theorem State.Inv.retire {s : State} (h : s.Inv) (a : Agent) (q : Request) (rest : List Request) :
    (retire a q rest s).Inv := by
  cases a <;> exact h.congr rfl rfl rfl rfl rfl rfl rfl

/-- Hardware reset zeroes the registers and writes no store (R220, R221). -/
theorem State.Inv.hardwareReset {s : State} (h : s.Inv) : s.hardwareReset.Inv :=
  .of_registers_zero rfl rfl rfl rfl h.rb_wf h.fb_wf h.rb_bound h.fb_bound

/-- Settles O51, by the cases of a step: hardware reset, nothing, or the words of one request and its booking. -/
theorem stepKeepsTheInvariants : Obligations.StepKeepsTheInvariants := by
  intro s u h hu
  rcases step_cases s u hu with ⟨_, rfl⟩ | ⟨_, _, _, rfl⟩ | ⟨_, a, q, rest, t, _, _, ht, rfl⟩
  · exact h.hardwareReset
  · exact h
  · exact (h.runWords ht).retire a q rest

/-! ## Which commands write what -/

/-- `parseByte_frame` field by field, for what a DSTEP leaves alone. -/
theorem parseByte_ring (b : Byte) (s : State) :
    (parseByte b s).1.rd = s.rd ∧ (parseByte b s).1.wr = s.wr ∧ (parseByte b s).1.count = s.count ∧
      (parseByte b s).1.rb = s.rb ∧ (parseByte b s).1.dout = s.dout ∧
      (parseByte b s).1.doutDefined = s.doutDefined := by
  rw [parseByte_frame]
  exact ⟨rfl, rfl, rfl, rfl, rfl, rfl⟩

/-- On a buffer that is not full a byte off the line goes in and one comes out. -/
theorem receiveByte_count {b : Byte} {s v : State} (hc : s.count ≠ s.cap) (hv : receiveByte b s = .next v) :
    v.count = s.count ∧ v.cap = s.cap := by
  rcases execInsert_cases b s with ⟨h, _⟩ | ⟨h, _⟩ | ⟨_, hins⟩
  · exact absurd h hc
  · exact absurd h hc
  · rw [receiveByte, hins, andThen_next, execDstep_not_empty (Nat.succ_ne_zero _)] at hv
    cases hv
    rw [parseByte_frame]
    exact ⟨rfl, rfl⟩

/-- A run leaves `count` alone on a buffer that is not full. -/
theorem receive_count (bs : List Byte) {s u : State} (hc : s.count ≠ s.cap) (hu : receive bs s = .next u) :
    u.count = s.count := by
  induction bs generalizing s u with
  | nil => cases hu; rfl
  | cons b bs ih =>
    obtain ⟨_, v, _, _, _, hv⟩ := receiveByte_next b s
    obtain ⟨hcount, hcap⟩ := receiveByte_count hc hv
    rw [receive, hv, andThen_next, andThen_eq_next] at hu
    obtain ⟨w, hw, hkeep⟩ := hu
    have hwcount := ih (by rw [hcount, hcap]; exact hc) hw
    cases hkeep
    rcases keepResult_cases v.resp w with h | ⟨r, h⟩ <;> (rw [h]; exact hwcount.trans hcount)

/-- Settles O53, by the cases of a meaning: in each the fields it does not write are the old ones, and the guard of the
case is the guard of the statement. -/
theorem whichCommandWritesWhat : Obligations.WhichCommandWritesWhat := by
  intro i s t h
  have houtside := exec_outside i s t h
  rcases exec_cases i s t h with ⟨r, rfl⟩ | ⟨e, r, rfl | rfl, hc, rfl⟩ | ⟨e, r, rfl, hc, rfl⟩ |
    ⟨rfl, hc, r, rfl⟩ | ⟨rfl, r, rfl⟩ | ⟨rfl, hc, r, rfl⟩ | ⟨f, rfl, hrun⟩
  · simp
  · simp [hc]
  · simp [hc]
  · simp [hc, Nat.sub_add_cancel s.cap_pos]
  · simp [hc]
  · simp
  · obtain ⟨_, hwr, _, hrb, hdout, hdef⟩ := parseByte_ring (s.readRb s.rd) s.removeOldest
    simpa [hc, hwr, hrb, hdout, hdef] using houtside
  · obtain ⟨_, _, _, _, _, _, _, hdout, hdef⟩ := receive_outside _ s t hrun
    have hcount : t.count ≠ s.count → s.count = s.cap := not_imp_comm.1 fun hc => receive_count _ hc hrun
    simpa [hdout, hdef] using And.intro hcount houtside

/-! ## Stale bytes -/

/-- Two legal states that agree on everything but stale bytes (R34). -/
structure Alike (s t : State) : Prop where
  left  : s.Inv
  right : t.Inv
  live  : SameLive s t

theorem Alike.respond {s t : State} (h : Alike s t) (r : Response) : Alike (s.respond r) (t.respond r) where
  left := h.left.respond r
  right := h.right.respond r
  live := ⟨h.live.params, h.live.rd, h.live.wr, h.live.count, h.live.cur, h.live.readDout, h.live.held, h.live.body⟩

theorem Alike.count_eq_cap {s t : State} (h : Alike s t) : t.count = t.cap ↔ s.count = s.cap := by
  rw [h.live.count, h.live.cap]

theorem Alike.count_lt {s t : State} (h : Alike s t) (hc : s.count ≠ s.cap) : s.count < s.cap ∧ t.count < t.cap :=
  ⟨Nat.lt_of_le_of_ne h.left.count_le hc, Nat.lt_of_le_of_ne h.right.count_le (mt h.count_eq_cap.1 hc)⟩

theorem Alike.count_ne_zero {s t : State} (h : Alike s t) (hc : s.count ≠ 0) : t.count ≠ 0 := h.live.count ▸ hc

/-- The oldest element is live. -/
theorem Alike.readRb_rd {s t : State} (h : Alike s t) (hc : s.count ≠ 0) : t.readRb t.rd = s.readRb s.rd := by
  have hs : s.peekIndex 0 = s.rd := Nat.mod_eq_of_lt h.left.rd_lt
  have ht : t.peekIndex 0 = t.rd := Nat.mod_eq_of_lt h.right.rd_lt
  rw [← hs, ← ht]
  exact h.live.readRb_peekIndex (Nat.pos_of_ne_zero hc)

/-! ### The operations on them -/

theorem Alike.insert {s t : State} (h : Alike s t) (hc : s.count ≠ s.cap) (e : Byte) :
    Alike (s.insert e) (t.insert e) := by
  obtain ⟨hs, ht⟩ := h.count_lt hc
  refine ⟨h.left.insert hs e, h.right.insert ht e, h.live.params, h.live.rd, ?_, congrArg (· + 1) h.live.count,
    h.live.cur, h.live.readDout, ?_, h.live.body⟩
  · simp only [State.insert_wr, State.advance, h.live.wr, h.live.cap]
  · rw [s.held_insert e h.left.wr_eq hs, t.held_insert e h.right.wr_eq ht, h.live.held]

theorem Alike.removeOldest {s t : State} (h : Alike s t) (hc : s.count ≠ 0) :
    Alike s.removeOldest t.removeOldest := by
  refine ⟨h.left.removeOldest hc, h.right.removeOldest (h.count_ne_zero hc), h.live.params, ?_, h.live.wr,
    congrArg (· - 1) h.live.count, h.live.cur, h.live.readDout, ?_, h.live.body⟩
  · simp only [State.removeOldest_rd, State.advance, h.live.rd, h.live.cap]
  · rw [s.held_removeOldest, t.held_removeOldest, h.live.held]

theorem Alike.setDout {s t : State} (h : Alike s t) (v : Byte) : Alike (s.setDout v) (t.setDout v) where
  left := h.left.setDout v
  right := h.right.setDout v
  live := ⟨h.live.params, h.live.rd, h.live.wr, h.live.count, h.live.cur, by simp, h.live.held, h.live.body⟩

theorem Alike.empty {s t : State} (h : Alike s t) :
    Alike (((s.setCount 0).setRd 0).setWr 0) (((t.setCount 0).setRd 0).setWr 0) where
  left := h.left.empty
  right := h.right.empty
  live := ⟨h.live.params, rfl, rfl, rfl, h.live.cur, h.live.readDout, rfl, h.live.body⟩

/-- The parser answers both alike, since it reads FB below the cursor only (R149), and leaves the ring alone. -/
theorem Alike.parseByte {s t : State} (h : Alike s t) (b : Byte) :
    (parseByte b t).2 = (parseByte b s).2 ∧ Alike (parseByte b s).1 (parseByte b t).1 := by
  have hagree : ParserAgree s t := ⟨by rw [h.live.params], h.live.cur, h.live.body⟩
  obtain ⟨hresult, _, hcur, hbody⟩ := hagree.parseByte b
  refine ⟨hresult, h.left.parseByte b, h.right.parseByte b, ?_⟩
  rw [parseByte_frame b s, parseByte_frame b t] at hcur hbody ⊢
  exact ⟨h.live.params, h.live.rd, h.live.wr, h.live.count, hcur, h.live.readDout, h.live.held, hbody⟩

/-! ### The commands on them -/

/-- Both outcomes are next states, with the same response and again alike. -/
def AnswerAlike (o p : Outcome) : Prop :=
  ∃ s t, o = .next s ∧ p = .next t ∧ t.resp = s.resp ∧ Alike s t

theorem Alike.answer {s t : State} (h : Alike s t) (r : Response) :
    AnswerAlike (.next (s.respond r)) (.next (t.respond r)) :=
  ⟨_, _, rfl, rfl, rfl, h.respond r⟩

theorem AnswerAlike.andThen {o p : Outcome} {k l : State → Outcome} (h : AnswerAlike o p)
    (hk : ∀ s t, t.resp = s.resp → Alike s t → AnswerAlike (k s) (l t)) : AnswerAlike (andThen o k) (andThen p l) := by
  obtain ⟨s, t, rfl, rfl, hresp, hst⟩ := h
  exact hk s t hresp hst

theorem Alike.execPush {s t : State} (h : Alike s t) (e : Byte) : AnswerAlike (execPush e s) (execPush e t) := by
  by_cases hc : s.count = s.cap
  · rw [execPush_full hc, execPush_full (h.count_eq_cap.2 hc)]
    exact h.answer _
  · rw [execPush_not_full hc, execPush_not_full (mt h.count_eq_cap.1 hc)]
    exact (h.insert hc e).answer _

theorem Alike.execPushc {s t : State} (h : Alike s t) (e : Byte) : AnswerAlike (execPushc e s) (execPushc e t) := by
  by_cases hc : s.count = s.cap
  · rw [execPushc_full hc, execPushc_full (h.count_eq_cap.2 hc)]
    have hpos := s.cap_pos
    have hroom : s.removeOldest.count ≠ s.removeOldest.cap := by
      show s.count - 1 ≠ s.cap
      omega
    exact ((h.removeOldest (by omega)).insert hroom e).answer _
  · rw [execPushc_not_full hc, execPushc_not_full (mt h.count_eq_cap.1 hc)]
    exact (h.insert hc e).answer _

theorem Alike.execPop {s t : State} (h : Alike s t) : AnswerAlike (execPop s) (execPop t) := by
  by_cases hc : s.count = 0
  · rw [execPop_empty hc, execPop_empty (h.live.count.trans hc), h.live.readDout]
    exact h.answer _
  · rw [execPop_not_empty hc, execPop_not_empty (h.count_ne_zero hc), h.readRb_rd hc]
    exact ((h.setDout _).removeOldest hc).answer _

theorem Alike.execDstep {s t : State} (h : Alike s t) : AnswerAlike (execDstep s) (execDstep t) := by
  by_cases hc : s.count = 0
  · rw [execDstep_empty hc, execDstep_empty (h.live.count.trans hc)]
    exact h.answer _
  · rw [execDstep_not_empty hc, execDstep_not_empty (h.count_ne_zero hc), h.readRb_rd hc]
    obtain ⟨hresult, hnext⟩ := (h.removeOldest hc).parseByte (s.readRb s.rd)
    rw [hresult]
    exact hnext.answer _

/-- An arriving byte is inserted by the same command, since the parameters agree. -/
theorem Alike.execInsert {s t : State} (h : Alike s t) (b : Byte) : AnswerAlike (execInsert b s) (execInsert b t) := by
  unfold Machine.execInsert
  rw [h.live.params]
  cases s.params.pushPolicy with
  | dropNewest => exact h.execPush b
  | dropOldest => exact h.execPushc b

theorem Alike.receiveByte {s t : State} (h : Alike s t) (b : Byte) :
    AnswerAlike (receiveByte b s) (receiveByte b t) :=
  (h.execInsert b).andThen fun _ _ _ hst => hst.execDstep

/-- A run of at least one byte answers both alike; the empty run leaves the responses that stand. -/
theorem Alike.receive {s t : State} (h : Alike s t) (bs : List Byte) (hresp : bs = [] → t.resp = s.resp) :
    AnswerAlike (receive bs s) (receive bs t) := by
  induction bs generalizing s t with
  | nil => exact ⟨s, t, rfl, rfl, hresp rfl, h⟩
  | cons b bs ih =>
    refine (h.receiveByte b).andThen fun u v huv hlive => (ih hlive fun _ => huv).andThen fun x y hxy hkeep => ?_
    rw [huv]
    cases u.resp with
    | none => exact ⟨x, y, rfl, rfl, hxy, hkeep⟩
    | some r =>
      by_cases hr : r.rv = true
      · simp only [keepResult, if_pos hr]
        exact hkeep.answer r
      · simp only [keepResult, if_neg hr]
        exact ⟨x, y, rfl, rfl, hxy, hkeep⟩

/-- Every command answers two legal states that agree on what can be observed alike. -/
theorem Alike.exec {s t : State} (h : Alike s t) (i : Instr) : AnswerAlike (exec i s) (exec i t) := by
  by_cases hi : readOnly i = true
  · obtain ⟨r, hs, ht⟩ := h.live.exec_readOnly hi
    rw [hs, ht]
    exact h.answer r
  cases i with
  | push e => exact h.execPush e
  | pushc e => exact h.execPushc e
  | pop => exact h.execPop
  | reset => exact h.empty.answer _
  | dstep => exact h.execDstep
  | frameRx f => exact h.receive f.toList fun hnil => absurd (congrArg List.length hnil) (by simp)
  | _ => simp [readOnly] at hi

/-- Settles O52: the commands keep the relation `Alike`, of which the statement shows the part without the invariants. -/
theorem staleBytesAreUnobservable : Obligations.StaleBytesAreUnobservable := by
  intro i s t hs ht hlive
  obtain ⟨s', t', hs', ht', hresp, hnext⟩ := Alike.exec ⟨hs, ht, hlive⟩ i
  exact ⟨s', t', hs', ht', hresp, hnext.live⟩

end Sys2Proof.Machine

/-! # Proofs of 20_memory.md: the ring as a bounded queue, its order along any run, read-only commands, and the order of the agents' requests -/

namespace Sys2Proof.Machine

/-! ## The held elements after each operation -/

@[simp] theorem State.respond_held (s : State) (r : Response) : (s.respond r).held = s.held := rfl

@[simp] theorem State.setDout_held (s : State) (v : Byte) : (s.setDout v).held = s.held := rfl

/-- The parser leaves the ring alone. -/
@[simp] theorem parseByte_held (b : Byte) (s : State) : (parseByte b s).1.held = s.held := by
  rw [parseByte_frame]
  rfl

theorem State.held_eq_nil {s : State} (hc : s.count = 0) : s.held = [] :=
  List.eq_nil_of_length_eq_zero (s.held_length.trans hc)

/-- In a legal state the buffer has room exactly when it is not full (R32). -/
theorem State.Inv.count_lt_iff {s : State} (h : s.Inv) : s.count < s.cap ↔ s.count ≠ s.cap :=
  h.count_le.lt_iff_ne

/-- Replacing the oldest element of a full buffer drops the head and appends the new element (R111). -/
theorem State.Inv.held_replaceOldest {s : State} (h : s.Inv) (hc : s.count = s.cap) (e : Byte) :
    (s.removeOldest.insert e).held = s.held.drop 1 ++ [e] := by
  have hpos := s.cap_pos
  have hroom : s.removeOldest.count < s.removeOldest.cap := by
    show s.count - 1 < s.cap
    omega
  rw [s.removeOldest.held_insert e (h.removeOldest (by omega)).wr_eq hroom, s.held_removeOldest]

/-! ## The held elements after each command -/

theorem held_execPush {s t : State} (h : s.Inv) {e : Byte} (ht : execPush e s = .next t) :
    t.held = if s.held.length < s.cap then s.held ++ [e] else s.held := by
  rw [s.held_length]
  by_cases hc : s.count = s.cap
  · rw [execPush_full hc] at ht; cases ht
    rw [if_neg (by omega), State.respond_held]
  · rw [execPush_not_full hc] at ht; cases ht
    have hlt := h.count_lt_iff.2 hc
    rw [if_pos hlt, State.respond_held, s.held_insert e h.wr_eq hlt]

theorem held_execPushc {s t : State} (h : s.Inv) {e : Byte} (ht : execPushc e s = .next t) :
    t.held = (if s.held.length < s.cap then s.held else s.held.drop 1) ++ [e] := by
  rw [s.held_length]
  by_cases hc : s.count = s.cap
  · rw [execPushc_full hc] at ht; cases ht
    rw [if_neg (by omega), State.respond_held, h.held_replaceOldest hc]
  · rw [execPushc_not_full hc] at ht; cases ht
    have hlt := h.count_lt_iff.2 hc
    rw [if_pos hlt, State.respond_held, s.held_insert e h.wr_eq hlt]

theorem held_execPop {s t : State} (ht : execPop s = .next t) : t.held = s.held.drop 1 := by
  by_cases hc : s.count = 0
  · rw [execPop_empty hc] at ht; cases ht
    rw [State.respond_held, State.held_eq_nil hc, List.drop_nil]
  · rw [execPop_not_empty hc] at ht; cases ht
    rw [State.respond_held, State.held_removeOldest, State.setDout_held]

theorem held_execDstep {s t : State} (ht : execDstep s = .next t) : t.held = s.held.drop 1 := by
  by_cases hc : s.count = 0
  · rw [execDstep_empty hc] at ht; cases ht
    rw [State.respond_held, State.held_eq_nil hc, List.drop_nil]
  · rw [execDstep_not_empty hc] at ht; cases ht
    rw [State.respond_held, parseByte_held, s.held_removeOldest]

theorem held_execReset {s t : State} (ht : execReset s = .next t) : t.held = [] := by
  cases ht
  exact State.held_eq_nil rfl

/-- A read-only command writes no state but the response (R53). -/
theorem exec_readOnly {i : Instr} (hi : readOnly i = true) (s : State) : ∃ r, exec i s = .next (s.respond r) := by
  obtain ⟨r, hr, _⟩ := (SameLive.refl s).exec_readOnly hi
  exact ⟨r, hr⟩

theorem held_exec_readOnly {i : Instr} (hi : readOnly i = true) {s t : State} (ht : exec i s = .next t) :
    t.held = s.held := by
  obtain ⟨r, hr⟩ := exec_readOnly hi s
  rw [hr] at ht; cases ht
  rfl

/-- A POP of a held element shows it on DOUT (R112). -/
theorem execPop_dout {s t : State} (h : s.Inv) (ht : execPop s = .next t) {b : Byte} (hb : b ∈ s.held.head?) :
    t.dout = b ∧ t.readDout = b := by
  rw [s.held_head? h.rd_lt] at hb
  by_cases hc : s.count = 0
  · simp [hc] at hb
  · rw [if_neg hc] at hb
    rw [execPop_not_empty hc] at ht; cases ht; cases hb
    exact ⟨rfl, State.readDout_setDout s _⟩

/-- PEEK answers the `idx`-th oldest held element, or no value (R113). -/
theorem execPeek_val {s t : State} {idx : BitVec 16} (ht : execPeek idx s = .next t) :
    ∃ r, t.resp = some r ∧ r.val = (s.held[idx.toNat]?).map (BitVec.setWidth 16) := by
  rw [s.held_getElem?]
  unfold execPeek at ht
  by_cases hk : s.count ≤ idx.toNat
  · rw [if_pos hk] at ht; cases ht
    rw [if_neg (Nat.not_lt.2 hk)]
    exact ⟨_, rfl, rfl⟩
  · rw [if_neg hk] at ht; cases ht
    rw [if_pos (Nat.lt_of_not_le hk)]
    exact ⟨_, rfl, rfl⟩

/-- Settles O23: the law of each ring command on the held elements. -/
theorem ringRefinesBoundedQueue : Obligations.RingRefinesBoundedQueue := fun s h =>
  ⟨s.held_length, fun _ _ ht => held_execPush h ht, fun _ _ ht => held_execPushc h ht,
    fun _ ht => ⟨held_execPop ht, fun _ hb => execPop_dout h ht hb⟩,
    fun idx _ ht => ⟨held_exec_readOnly (i := .peek idx) rfl ht, execPeek_val ht⟩,
    fun _ ht => held_execReset ht, fun _ ht => held_execDstep ht⟩

/-! ## The held elements after a run off the line -/

theorem State.backlog_of_not_full {s : State} (h : s.Inv) (hc : s.count ≠ s.cap) (bs : List Byte) :
    s.backlog bs = s.held ++ bs := by
  rw [State.backlog, s.held_length, if_pos (h.count_lt_iff.2 hc)]

theorem State.backlog_of_full {s : State} (hc : s.count = s.cap) (bs : List Byte) :
    s.backlog bs =
      if s.params.pushPolicy = .dropNewest then s.held ++ bs.drop 1 else s.held.drop 1 ++ bs := by
  rw [State.backlog, s.held_length, if_neg (by omega)]
  cases s.params.pushPolicy <;> rfl

/-- Only the first byte of a run can meet a full buffer, so the others follow the backlog of the first. -/
theorem State.backlog_cons (s : State) (b : Byte) (bs : List Byte) : s.backlog (b :: bs) = s.backlog [b] ++ bs := by
  unfold State.backlog
  split
  · simp
  · split <;> simp

/-- An inserted byte leaves the backlog of that byte in the ring (R110, R111). -/
theorem held_execInsert {s t : State} (h : s.Inv) {b : Byte} (ht : execInsert b s = .next t) :
    t.held = s.backlog [b] := by
  rcases execInsert_cases b s with ⟨hc, hp, e⟩ | ⟨hc, hp, e⟩ | ⟨hc, e⟩ <;> (rw [e] at ht; cases ht)
  · rw [State.backlog_of_full hc, if_pos hp]
    exact (List.append_nil _).symm
  · rw [State.backlog_of_full hc, hp, if_neg (by decide), State.respond_held, h.held_replaceOldest hc]
  · rw [State.backlog_of_not_full h hc, State.respond_held, s.held_insert b h.wr_eq (h.count_lt_iff.2 hc)]

/-- A byte off the line leaves its backlog without the oldest element, in a buffer that has room. -/
theorem held_receiveByte {s v : State} (h : s.Inv) {b : Byte} (hv : receiveByte b s = .next v) :
    v.Inv ∧ v.count ≠ v.cap ∧ s.backlog [b] ≠ [] ∧ v.held = (s.backlog [b]).drop 1 := by
  obtain ⟨t, u, ht, hc, hu, hu'⟩ := receiveByte_next b s
  rw [hu'] at hv; cases hv
  have htInv : t.Inv := h.execInsert b ht
  have hheld : v.held = t.held.drop 1 := held_execDstep hu
  have hcount : v.count = t.count - 1 := by rw [← v.held_length, hheld, List.length_drop, t.held_length]
  have hcap : v.cap = t.cap := State.cap_congr t v (exec_outside .dstep t v hu).1
  have hle := htInv.count_le
  rw [← held_execInsert h ht]
  exact ⟨htInv.execDstep hu, by omega, fun hnil => hc (by rw [← t.held_length, hnil]; rfl), hheld⟩

/-- A run of bytes leaves its backlog without as many of the oldest elements; the empty run takes none. -/
theorem held_receive (bs : List Byte) {s t : State} (h : s.Inv) (hbs : bs ≠ [] ∨ s.count ≠ s.cap)
    (ht : receive bs s = .next t) : t.held = (s.backlog bs).drop bs.length := by
  induction bs generalizing s t with
  | nil =>
    cases ht
    rw [State.backlog_of_not_full h (hbs.resolve_left (not_not_intro rfl)), List.append_nil]
    rfl
  | cons b bs ih =>
    obtain ⟨_, v, _, _, _, hv⟩ := receiveByte_next b s
    obtain ⟨hvInv, hroom, hne, hheld⟩ := held_receiveByte h hv
    rw [receive, hv, andThen_next, andThen_eq_next] at ht
    obtain ⟨w, hw, hkeep⟩ := ht
    cases hkeep
    have hresult : (keepResult v.resp w).held = w.held := by
      rcases keepResult_cases v.resp w with e | ⟨r, e⟩ <;> rw [e]
      rfl
    calc (keepResult v.resp w).held
        = (v.backlog bs).drop bs.length := hresult.trans (ih hvInv (.inr hroom) hw)
      _ = ((s.backlog [b]).drop 1 ++ bs).drop bs.length := by rw [State.backlog_of_not_full hvInv hroom, hheld]
      _ = ((s.backlog [b] ++ bs).drop 1).drop bs.length := by
        rw [List.drop_append_of_le_length (List.length_pos_iff.2 hne)]
      _ = (s.backlog (b :: bs)).drop (b :: bs).length := by
        rw [List.drop_drop, s.backlog_cons b bs, List.length_cons, Nat.add_comm]

/-! ## First in, first out -/

/-- A FRAME_RX run conserves the order: its backlog is what was held and what enters, but for the oldest element where it
was discarded (entry 14). -/
theorem leaves_append_held_frameRx {s t : State} (h : s.Inv) (f : Frame) (ht : execFrameRx f s = .next t) :
    leaves (.frameRx f) s ++ t.held = s.held ++ enters (.frameRx f) s := by
  have hlen : f.toList.length = 13 := f.length_toList
  have hheld : t.held = (s.backlog f.toList).drop 13 := by
    rw [held_receive f.toList h (.inl (List.ne_nil_of_length_pos (by omega))) ht, hlen]
  rw [leaves, enters, hheld, List.append_assoc, List.take_append_drop, s.held_length]
  by_cases hc : s.count = s.cap
  · rw [State.backlog_of_full hc]
    cases s.params.pushPolicy
    · simp [hc]
    · simp [hc, ← List.append_assoc, -List.drop_one]
  · simp [hc, State.backlog_of_not_full h hc]

/-- Every command conserves the order: what leaves and what is then held is what was held and what enters (R57). -/
theorem leaves_append_held {s t : State} (h : s.Inv) (i : Instr) (ht : exec i s = .next t) :
    leaves i s ++ t.held = s.held ++ enters i s := by
  cases i with
  | push e =>
    rw [leaves, enters, held_execPush h ht]
    split <;> simp
  | pushc e =>
    rw [leaves, enters, held_execPushc h ht, s.held_length]
    by_cases hc : s.count = s.cap
    · rw [if_pos hc, if_neg (by omega), ← List.append_assoc, List.take_append_drop]
    · rw [if_neg hc, if_pos (h.count_lt_iff.2 hc), List.nil_append]
  | pop => rw [leaves, enters, held_execPop ht, List.take_append_drop, List.append_nil]
  | dstep => rw [leaves, enters, held_execDstep ht, List.take_append_drop, List.append_nil]
  | reset => rw [leaves, enters, held_execReset ht]
  | frameRx f => exact leaves_append_held_frameRx h f ht
  | _ => rw [leaves, enters, held_exec_readOnly rfl ht, List.nil_append, List.append_nil]

/-- Every command completes (R190). -/
theorem exec_next (i : Instr) (s : State) : ∃ t, exec i s = .next t := by
  cases i with
  | push e =>
    by_cases hc : s.count = s.cap
    · exact ⟨_, execPush_full hc e⟩
    · exact ⟨_, execPush_not_full hc e⟩
  | pushc e => exact ⟨_, rfl⟩
  | pop =>
    by_cases hc : s.count = 0
    · exact ⟨_, execPop_empty hc⟩
    · exact ⟨_, execPop_not_empty hc⟩
  | reset => exact ⟨_, rfl⟩
  | dstep =>
    by_cases hc : s.count = 0
    · exact ⟨_, execDstep_empty hc⟩
    · exact ⟨_, execDstep_not_empty hc⟩
  | frameRx f => exact receive_next _ _
  | _ => exact (exec_readOnly rfl s).imp' _ fun _ hr => hr

/-- The trace of a command and the commands after it. -/
theorem ringTrace_cons {i : Instr} {s t : State} (ht : exec i s = .next t) (is : List Instr) :
    ringTrace (i :: is) s =
      (enters i s ++ (ringTrace is t).1, leaves i s ++ (ringTrace is t).2.1, (ringTrace is t).2.2) := by
  rw [ringTrace, ht]

/-- Settles O24, by induction on the commands: each conserves the order and keeps the state legal. -/
theorem fifoOrderAlongAnyRun : Obligations.FifoOrderAlongAnyRun := by
  intro is
  induction is with
  | nil => exact fun s _ => (List.append_nil s.held).symm
  | cons i is ih =>
    intro s h
    obtain ⟨t, ht⟩ := exec_next i s
    rw [ringTrace_cons ht]
    calc (leaves i s ++ (ringTrace is t).2.1) ++ (ringTrace is t).2.2
        = leaves i s ++ (t.held ++ (ringTrace is t).1) := by rw [List.append_assoc, ih t (h.exec ht)]
      _ = s.held ++ (enters i s ++ (ringTrace is t).1) := by
        rw [← List.append_assoc, leaves_append_held h i ht, List.append_assoc]

/-! ## Read-only commands -/

/-- A response is not seen by later commands. -/
theorem SameLive.respond (s : State) (r : Response) : SameLive s (s.respond r) :=
  ⟨rfl, rfl, rfl, rfl, rfl, rfl, rfl, fun _ _ => rfl⟩

/-- Settles O22: a read-only command puts a response on the ports, and answers the state with that response as it
answered the state before. -/
theorem readOnlyCommandsAreIdempotent : Obligations.ReadOnlyCommandsAreIdempotent := by
  intro i s t hi ht
  obtain ⟨r, hr⟩ := exec_readOnly hi s
  rw [hr] at ht; cases ht
  obtain ⟨r', hs, hagain⟩ := (SameLive.respond s r).exec_readOnly hi
  rw [hr] at hs
  obtain rfl : r = r' := by cases hs; rfl
  exact ⟨hagain, rfl⟩

/-! ## The order of the agents' requests -/

/-- Settles O6, by the cases of a step: the words of a request touch no queue, and booking it touches its agent's. -/
theorem stepServesOneAgentInItsOrder : Obligations.StepServesOneAgentInItsOrder := by
  intro s u hrst hu
  rcases step_cases s u hu with ⟨hr, _⟩ | ⟨_, hp, hc, rfl⟩ | ⟨_, a, q, rest, t, _, hq, ht, rfl⟩
  · rw [hrst] at hr; cases hr
  · exact .inl ⟨hp, hc, rfl⟩
  · obtain ⟨_, hproducer, hconsumer, _, hturn⟩ := runWords_outside _ s t ht
    have hturn : t.turn + 1 = s.turn + 1 := congrArg (· + 1) hturn
    cases a with
    | producer => exact .inr (.inl ⟨q, rest, hq, hconsumer, rfl, hturn, remaining_cases q rest t⟩)
    | consumer => exact .inr (.inr ⟨q, rest, hq, hproducer, rfl, hturn, remaining_cases q rest t⟩)

/-- A served request other than a DRAIN is gone. -/
theorem remaining_of_ne_drain {q : Request} (hq : q ≠ .drain) (rest : List Request) (t : State) :
    remaining q rest t = rest :=
  (remaining_cases q rest t).resolve_right fun h => hq h.1

/-- A served DRAIN stays while its DSTEP consumes a byte without a result (R150). -/
theorem remaining_drain {t : State} {r : Response} (hr : t.resp = some r) (rest : List Request) :
    remaining .drain rest t = if r.ok = true ∧ r.rv = false then .drain :: rest else rest := by
  simp [remaining, drainContinues, hr]

/-- Settles O5: what stays of the queue is `remaining`. -/
theorem stepRunsTheDecodedInstruction : Obligations.StepRunsTheDecodedInstruction := by
  intro s a q rest i t hrst hn hq hd ht
  obtain ⟨_, _, _, _, hturn, _⟩ := exec_outside i s t ht
  refine ⟨remaining q rest t, ?_, fun hne => remaining_of_ne_drain hne rest t, ?_⟩
  · rw [step_of_decode hrst hn hq hd ht, retire, hturn]
  · rintro r rfl hr
    exact remaining_drain hr rest

end Sys2Proof.Machine

/-! # Proofs of 30_encoding.md: the opcode map, encode and decode, the built frame on the wire, and the FRAME_RX run -/

namespace Sys2Proof.Machine

open Config

/-! ## The opcode map, a lemma for each opcode (R86, R87) -/

section OpcodeMap

variable (a b : Byte) (fin : FrameWord)

theorem decode_push_word : decode (.port (0x1#4 ++ a ++ b) fin) = .ok (.push b) := by
  simp [decode, decodeCommand, opField_append, bField_append]

theorem decode_pushc_word : decode (.port (0x2#4 ++ a ++ b) fin) = .ok (.pushc b) := by
  simp [decode, decodeCommand, opField_append, bField_append]

theorem decode_pop_word : decode (.port (0x3#4 ++ a ++ b) fin) = .ok .pop := by
  simp [decode, decodeCommand, opField_append]

theorem decode_peek_word : decode (.port (0x4#4 ++ a ++ b) fin) = .ok (.peek (a ++ b)) := by
  simp [decode, decodeCommand, opField_append, aField_append, bField_append]

theorem decode_reset_word : decode (.port (0x5#4 ++ a ++ b) fin) = .ok .reset := by
  simp [decode, decodeCommand, opField_append]

theorem decode_count_word : decode (.port (0x6#4 ++ a ++ b) fin) = .ok .count := by
  simp [decode, decodeCommand, opField_append]

theorem decode_isEmpty_word : decode (.port (0x7#4 ++ a ++ b) fin) = .ok .isEmpty := by
  simp [decode, decodeCommand, opField_append]

theorem decode_isFull_word : decode (.port (0x8#4 ++ a ++ b) fin) = .ok .isFull := by
  simp [decode, decodeCommand, opField_append]

theorem decode_dstep_word : decode (.port (0x9#4 ++ a ++ b) fin) = .ok .dstep := by
  simp [decode, decodeCommand, opField_append]

theorem decode_build_word : decode (.port (0xA#4 ++ a ++ b) fin) = .ok (.build a b) := by
  simp [decode, decodeCommand, opField_append, aField_append, bField_append]

theorem decode_checksum_word : decode (.port (0xB#4 ++ a ++ b) fin) = .ok (.checksum (unpackFrame fin)) := by
  simp [decode, decodeCommand, opField_append]

theorem decode_reserved_word {op : BitVec 4} (h : op = 0x0#4 ∨ 0xC#4 ≤ op) :
    decode (.port (op ++ a ++ b) fin) = .error (.reservedOpcode op) := by
  have hop : op = 0x0#4 ∨ op = 0xC#4 ∨ op = 0xD#4 ∨ op = 0xE#4 ∨ op = 0xF#4 := by bv_omega
  rcases hop with rfl | rfl | rfl | rfl | rfl <;> simp [decode, decodeCommand, opField_append]

end OpcodeMap

/-- Settles O1: the lemma of each opcode; CHECKSUM takes the bytes of `fin` that `unpackFrame` lays out. -/
theorem decodeFollowsTheOpcodeMap : Obligations.DecodeFollowsTheOpcodeMap := fun a b fin =>
  ⟨decode_push_word a b fin, decode_pushc_word a b fin, decode_pop_word a b fin, decode_peek_word a b fin,
    decode_reset_word a b fin, decode_count_word a b fin, decode_isEmpty_word a b fin, decode_isFull_word a b fin,
    decode_dstep_word a b fin, decode_build_word a b fin,
    ⟨unpackFrame fin, decode_checksum_word a b fin, fun _ _ => Vector.getElem_ofFn _⟩,
    fun _ h => decode_reserved_word a b fin h⟩

/-! ## Encoding, then decoding -/

/-- The index of a PEEK is its two operand bytes (R87). -/
theorem index_of_operand_bytes (idx : BitVec 16) : idx.extractLsb' 8 8 ++ idx.extractLsb' 0 8 = idx := by
  rw [BitVec.extractLsb'_append_extractLsb'_eq_extractLsb' (by rfl)]
  exact BitVec.extractLsb'_eq_self

/-- The words of FRAME_TX are the pattern of R81, which names the operands at bytes 3 and 8. -/
theorem decode_outbound_builtPattern (a c : Byte) :
    decode (.wire .outbound (packFrame (builtPattern a c))) = .ok (.frameTx a c) := by
  rw [decode, unpackFrame_packFrame]
  exact if_pos rfl

/-- The words of a run with the doubled header are FRAME_RX (R82 (a)). -/
theorem decode_inbound_of_hasHeader {f : Frame} (h : f.hasHeader = true) :
    decode (.wire .inbound (packFrame f)) = .ok (.frameRx f) := by
  rw [decode, unpackFrame_packFrame]
  exact if_pos h

/-- Settles O2, by cases on the instruction: the lemma of its opcode, or of its wire frame. -/
theorem decodeOfEncodeIsIdentity : Obligations.DecodeOfEncodeIsIdentity := by
  intro i hi
  cases i with
  | push e => exact decode_push_word 0 e 0
  | pushc e => exact decode_pushc_word 0 e 0
  | pop => exact decode_pop_word 0 0 0
  | peek idx => exact (decode_peek_word _ _ 0).trans (by rw [index_of_operand_bytes])
  | reset => exact decode_reset_word 0 0 0
  | count => exact decode_count_word 0 0 0
  | isEmpty => exact decode_isEmpty_word 0 0 0
  | isFull => exact decode_isFull_word 0 0 0
  | dstep => exact decode_dstep_word 0 0 0
  | build a c => exact decode_build_word a c 0
  | checksum f => exact (decode_checksum_word 0 0 _).trans (by rw [unpackFrame_packFrame])
  | frameTx a c => exact decode_outbound_builtPattern a c
  | frameRx f => exact decode_inbound_of_hasHeader hi

/-- Settles O4: each word is evaluated. -/
theorem specWordsDecode : Obligations.SpecWordsDecode := by
  unfold Obligations.SpecWordsDecode
  decide

/-! ## Reserved opcodes -/

/-- A word with a reserved opcode answers `ok = 0`, `rv = 0` and does nothing else (R89). -/
theorem runWords_reserved_word {op : BitVec 4} (h : op = 0x0#4 ∨ 0xC#4 ≤ op) (a b : Byte) (fin : FrameWord)
    (s : State) : runWords (.port (op ++ a ++ b) fin) s = .next (s.respond (.flag false)) := by
  rw [runWords, decode_reserved_word a b fin h]
  rfl

/-- Settles O7: the reserved word only answers, and booking its request only removes it from the agent's queue. -/
theorem reservedOpcodeChangesNothing : Obligations.ReservedOpcodeChangesNothing := by
  intro s agent op x y fin rest hr hn hq hop
  rw [step_serve s agent _ rest hr hn hq, serve, Request.words, runWords_reserved_word hop]
  cases agent <;> rfl

/-! ## The built frame -/

/-- The window of a built frame: the two address bytes cancel (R81). -/
theorem built_window_xor (a c : Byte) :
    0x09#8 ^^^ a ^^^ 0x03#8 ^^^ 0x01#8 ^^^ a ^^^ 0x00#8 ^^^ c ^^^ 0x00#8 = 0x0B#8 ^^^ c :=
  calc 0x09#8 ^^^ a ^^^ 0x03#8 ^^^ 0x01#8 ^^^ a ^^^ 0x00#8 ^^^ c ^^^ 0x00#8
      = 0x09#8 ^^^ 0x03#8 ^^^ 0x01#8 ^^^ (a ^^^ a) ^^^ 0x00#8 ^^^ c ^^^ 0x00#8 := by ac_rfl
    _ = 0x0B#8 ^^^ c := by simp

/-- The checksum of a frame in the making is that of R81. -/
theorem chk_frameBody (a c : Byte) : chk (frameBody a c) = some (0x0B#8 ^^^ c) := by
  have hlen : byteAt (frameBody a c) 2 = LEN := rfl
  have hwindow : windowXor (byteAt (frameBody a c)) LEN.toNat =
      0x00#8 ^^^ 0x09#8 ^^^ a ^^^ 0x03#8 ^^^ 0x01#8 ^^^ a ^^^ 0x00#8 ^^^ c ^^^ 0x00#8 := rfl
  rw [chk_eq, hlen, if_pos (by decide), hwindow, BitVec.zero_xor, built_window_xor]

/-- BUILD makes the pattern of R81. -/
theorem buildFrame_eq_builtPattern (a c : Byte) : buildFrame a c = builtPattern a c := by
  rw [buildFrame, chk_frameBody]
  rfl

/-- Settles O3: the 104 bits are the pattern's as they are laid on the port. -/
theorem builtFrameBitForBit : Obligations.BuiltFrameBitForBit := fun a c =>
  ⟨0x0B#8 ^^^ c, rfl, (built_window_xor a c).symm, rfl⟩

/-- Settles O44: the frame that FRAME_TX emits is the one that it is encoded as. -/
theorem frameTxResult : Obligations.FrameTxResult := by
  intro a c s
  refine ⟨packFrame (builtPattern a c), rfl, ?_⟩
  rw [exec, execFrameTx, buildFrame_eq_builtPattern]
  rfl

/-! ## A frame assembled in FB -/

/-- The parser has taken the first `n` bytes of `f`: they stand in FB below the cursor (R31). -/
structure Assembled (f : Frame) (n : Nat) (s : State) : Prop where
  cur  : s.cur.val = n
  body : ∀ i (_ : i < n) (_ : i < 13), Memory.lookup s.fb i = some f[i]

/-- What FB holds once `f[n]` is stored behind the bytes before it. -/
theorem Assembled.lookup_writeFb {f : Frame} {n : Nat} {s : State} (h : Assembled f n s) (hn : n < 13) {i : Nat}
    (hi : i < n + 1) (hi13 : i < 13) : Memory.lookup (s.writeFb n f[n]).fb i = some f[i] := by
  rw [State.writeFb_fb, Memory.lookup_write]
  by_cases hin : i = n
  · subst hin
    rw [if_pos rfl]
  · rw [if_neg hin, h.body i (by omega) hi13]

/-- The next byte of a frame is stored, and gives no result before the thirteenth (R141 to R143). -/
theorem Assembled.parseByte {f : Frame} {n : Nat} {s : State} (h : Assembled f n s) (hn : n < 12)
    (header : n < 2 → f[n] = HEAD) :
    Assembled f (n + 1) (parseByte f[n] s).1 ∧ (parseByte f[n] s).2 = none := by
  have stored : Machine.parseByte f[n] s = ((s.writeFb n f[n]).setCur ⟨n + 1, by omega⟩, none) := by
    rcases (by omega : n = 0 ∨ n = 1 ∨ 2 ≤ n) with rfl | rfl | h2
    · rw [parseByte_first _ s h.cur, if_pos (header (by decide))]
      rfl
    · rw [parseByte_second _ s h.cur, if_pos (header (by decide))]
      rfl
    · obtain rfl := h.cur
      rw [parseByte_body _ s h2 hn]
  rw [stored]
  exact ⟨⟨rfl, fun i hi hi13 => h.lookup_writeFb (by omega) hi hi13⟩, rfl⟩

/-- The thirteenth byte completes the frame, which is judged by R82 (R144). -/
theorem Assembled.parseByte_last {f : Frame} {s : State} (h : Assembled f 12 s) :
    ∃ t, Machine.parseByte f[12] s = (t, if Accepts (byteAt f) then some (frameResult f) else none) ∧
      t.cur = 0 ∧ ∀ i (_ : i < 13), Memory.lookup t.fb i = some f[i] := by
  have hread : ∀ i (_ : i < 12), s.readFb i = f[i] := fun i hi => by
    rw [State.readFb, h.body i hi (by omega), Option.getD_some]
  have hbytes : ∀ i < 13, s.completed f[12] i = byteAt f i := fun i hi => by
    rw [State.completed, byteAt_eq_getElem f i hi]
    by_cases h12 : i = 12
    · subst h12
      rw [if_pos rfl]
    · rw [if_neg h12, hread i (by omega)]
  refine ⟨(s.writeFb 12 f[12]).setCur 0, ?_, rfl, fun i hi => h.lookup_writeFb (by omega) hi hi⟩
  rw [Machine.parseByte_last f[12] s h.cur]
  simp only [accepts_congr _ _ hbytes, hread 6 (by decide), hread 7 (by decide), frameResult]

/-- The first `n + 1` bytes of a frame. -/
theorem frame_take_succ (f : Frame) (n : Nat) (hn : n < 13) : f.toList.take (n + 1) = f.toList.take n ++ [f[n]] := by
  rw [List.take_succ_eq_append_getElem (by simpa using hn), Vector.getElem_toList]

/-- Up to twelve bytes of a run with the doubled header are stored from `cur = 0` on. -/
theorem assembled_feed_take {f : Frame} {s : State} (header : ∀ i (_ : i < 2), f[i] = HEAD) (hcur : s.cur = 0)
    (n : Nat) (hn : n ≤ 12) : Assembled f n (feed (f.toList.take n) s).1 ∧ (feed (f.toList.take n) s).2 = [] := by
  induction n with
  | zero => exact ⟨⟨congrArg Fin.val hcur, fun i hi => absurd hi (Nat.not_lt_zero i)⟩, rfl⟩
  | succ n ih =>
    obtain ⟨hbody, hnone⟩ := ih (by omega)
    obtain ⟨hnext, hresult⟩ := hbody.parseByte (by omega) (header n)
    rw [frame_take_succ f n (by omega), feed_append, feed_cons, hnone, hresult]
    exact ⟨hnext, rfl⟩

/-- A run with the doubled header, fed from `cur = 0`: FB holds it, `cur` is 0 again, and it gives its result exactly
when it is accepted (R82, R144). -/
theorem feed_frame_with_header {f : Frame} {s : State} (header : ∀ i (_ : i < 2), f[i] = HEAD) (hcur : s.cur = 0) :
    (feed f.toList s).1.cur = 0 ∧ (∀ i (_ : i < 13), Memory.lookup (feed f.toList s).1.fb i = some f[i]) ∧
      (feed f.toList s).2 = if Accepts (byteAt f) then [frameResult f] else [] := by
  obtain ⟨hbody, hnone⟩ := assembled_feed_take header hcur 12 le_rfl
  obtain ⟨t, hlast, hzero, hfb⟩ := hbody.parseByte_last
  have hsplit : f.toList = f.toList.take 12 ++ [f[12]] := by
    rw [← frame_take_succ f 12 (by decide), List.take_of_length_le f.length_toList.le]
  rw [hsplit, feed_append, feed_cons, hnone, hlast]
  refine ⟨hzero, hfb, ?_⟩
  split <;> rfl

/-! ## A run through an empty ring -/

/-- Two states with the same parser: the parameters, `cur` and the whole of FB. -/
structure SameParser (s t : State) : Prop where
  params : t.params = s.params
  cur    : t.cur = s.cur
  fb     : t.fb = s.fb

/-- ParseByte writes FB at the cursor, but for a byte of the header search that is no header (R141 to R143). -/
theorem parseByte_fb (b : Byte) (s : State) :
    (parseByte b s).1.fb = if s.cur.val < 2 ∧ b ≠ HEAD then s.fb else Memory.write s.fb s.cur.val b := by
  rcases (by omega : s.cur.val = 0 ∨ s.cur.val = 1 ∨ (2 ≤ s.cur.val ∧ s.cur.val < 12) ∨ s.cur.val = 12) with
    h0 | h1 | ⟨h2, h12⟩ | h12
  · rw [parseByte_first b s h0]
    by_cases hb : b = HEAD <;> simp [hb, h0]
  · rw [parseByte_second b s h1]
    by_cases hb : b = HEAD
    · simp [hb, h1]
    · cases hs : s.params.strayRestart <;> simp [hb, h1]
  · have hstored : ¬ (s.cur.val < 2 ∧ b ≠ HEAD) := by omega
    rw [parseByte_body b s h2 h12, if_neg hstored]
    rfl
  · have hstored : ¬ (s.cur.val < 2 ∧ b ≠ HEAD) := by omega
    rw [parseByte_last b s h12, if_neg hstored, h12]
    rfl

/-- The same parser takes the same byte to the same parser, with the same result. -/
theorem SameParser.parseByte {s t : State} (h : SameParser s t) (b : Byte) :
    (parseByte b t).2 = (parseByte b s).2 ∧ SameParser (parseByte b s).1 (parseByte b t).1 := by
  obtain ⟨hp, hc, hf⟩ := h
  have hagree : ParserAgree s t := ⟨by rw [hp], hc, fun i _ => State.readFb_congr s t hf i⟩
  obtain ⟨hresult, _, hcur, _⟩ := hagree.parseByte b
  refine ⟨hresult, ?_, hcur, ?_⟩
  · rw [parseByte_frame b s, parseByte_frame b t]
    exact hp
  · rw [parseByte_fb, parseByte_fb, hc, hf]

theorem SameParser.feed {s t : State} (h : SameParser s t) (bs : List Byte) :
    (feed bs t).2 = (feed bs s).2 ∧ SameParser (feed bs s).1 (feed bs t).1 := by
  induction bs generalizing s t with
  | nil => exact ⟨rfl, h⟩
  | cons b bs ih =>
    obtain ⟨hresult, hnext⟩ := h.parseByte b
    obtain ⟨hresults, hlast⟩ := ih hnext
    exact ⟨by rw [feed_cons, feed_cons, hresult, hresults], hlast⟩

/-- A state after the bytes `bs` have gone through its empty ring, one after the other, into its parser: `rd` and `wr`
have moved past them, RB is `rb`, and the first result stands as the response (entry 14). -/
def State.passed (s : State) (bs : List Byte) (rb : Memory) : State :=
  { s with
    rd := (s.rd + bs.length) % s.cap, wr := (s.wr + bs.length) % s.cap, rb := rb
    cur := (feed bs s).1.cur, fb := (feed bs s).1.fb, resp := some (deliver (feed bs s).2.head?) }

/-- Moving on by one and then by `n`, modulo the capacity (R118). -/
theorem index_succ_add (c i n : Nat) : ((i + 1) % c + n) % c = (i + (n + 1)) % c := by
  rw [Nat.mod_add_mod, Nat.add_assoc, Nat.add_comm 1]

theorem State.passed_singleton_resp (s : State) (b : Byte) (rb : Memory) :
    (s.passed [b] rb).resp = some (deliver (parseByte b s).2) := by
  rw [State.passed, feed_cons, feed_nil, List.append_nil, Option.head?_toList]

theorem State.Inv.wr_eq_rd {s : State} (h : s.Inv) (hc : s.count = 0) : s.wr = s.rd := by
  rw [h.wr_eq, hc, Nat.add_zero, Nat.mod_eq_of_lt h.rd_lt]

/-- A byte off the line that meets an empty ring is stored at `wr` and goes straight to the parser. -/
theorem receiveByte_empty {s : State} (h : s.Inv) (hc : s.count = 0) (b : Byte) :
    receiveByte b s = .next (s.passed [b] (Memory.write s.rb s.wr b)) := by
  have hroom : s.count ≠ s.cap := hc ▸ Nat.ne_of_lt s.cap_pos
  have hins : execInsert b s = .next ((s.insert b).respond (.flag true)) := by
    rcases execInsert_cases b s with ⟨hfull, _⟩ | ⟨hfull, _⟩ | ⟨_, hins⟩
    · exact absurd hfull hroom
    · exact absurd hfull hroom
    · exact hins
  have hread : ((s.insert b).respond (.flag true)).readRb ((s.insert b).respond (.flag true)).rd = b :=
    (State.readRb_insert s b s.rd).trans (if_pos (h.wr_eq_rd hc).symm)
  have hsame : SameParser s ((s.insert b).respond (.flag true)).removeOldest := ⟨rfl, rfl, rfl⟩
  obtain ⟨hresult, _, hcur, hfb⟩ := hsame.parseByte b
  rw [receiveByte, hins, andThen_next, execDstep_not_empty (Nat.succ_ne_zero _), hread, hresult, parseByte_frame, hcur,
    hfb]
  rw [State.passed, feed_cons, feed_nil, List.append_nil, Option.head?_toList]
  rfl

/-- The response that stands is kept. -/
theorem keepResult_resp (t : State) : keepResult t.resp t = t := by
  cases hr : t.resp with
  | none => rfl
  | some r =>
    rw [keepResult, State.respond, ← hr]
    exact ite_self _

/-- Passing one byte and then others is passing them all, since the first result's response is kept. -/
theorem keepResult_passed (s : State) (b : Byte) (bs : List Byte) (m rb : Memory) :
    keepResult (s.passed [b] m).resp ((s.passed [b] m).passed bs rb) = s.passed (b :: bs) rb := by
  have hsame : SameParser (parseByte b s).1 (s.passed [b] m) := ⟨by rw [parseByte_frame]; rfl, rfl, rfl⟩
  obtain ⟨hresults, _, hcur, hfb⟩ := hsame.feed bs
  have hindex := fun i => index_succ_add s.cap i bs.length
  have hlater : (s.passed [b] m).passed bs rb =
      (s.passed (b :: bs) rb).respond (deliver (feed bs (parseByte b s).1).2.head?) := by
    rw [State.passed, hresults, hcur, hfb]
    simp only [State.passed, State.respond, feed_cons, List.length_cons, ← hindex]
    rfl
  rw [hlater, s.passed_singleton_resp]
  cases hr : (parseByte b s).2 with
  | none => simp [keepResult, deliver, Response.flag, State.passed, State.respond, feed_cons, hr]
  | some r => simp [keepResult, deliver, Response.result, State.passed, State.respond, feed_cons, hr]

/-- Storing a byte at `wr` leaves every other cell as it was. -/
theorem State.Inv.lookup_write_wr {s : State} (h : s.Inv) (b : Byte) {a : Nat} (ha : a ≠ (s.wr + 0) % s.cap) :
    Memory.lookup (Memory.write s.rb s.wr b) a = Memory.lookup s.rb a := by
  rw [Nat.add_zero, Nat.mod_eq_of_lt h.wr_lt] at ha
  rw [Memory.lookup_write, if_neg ha]

/-- A run off the line that meets an empty ring goes straight to the parser; of RB it writes the cells from `wr` on. -/
theorem receive_empty (bs : List Byte) (hbs : bs ≠ []) {s : State} (h : s.Inv) (hc : s.count = 0) :
    ∃ rb, receive bs s = .next (s.passed bs rb) ∧
      ∀ a, (∀ i < bs.length, a ≠ (s.wr + i) % s.cap) → Memory.lookup rb a = Memory.lookup s.rb a := by
  induction bs generalizing s with
  | nil => exact absurd rfl hbs
  | cons b bs ih =>
    have hbyte := receiveByte_empty h hc b
    by_cases hlast : bs = []
    · subst hlast
      refine ⟨_, ?_, fun a ha => h.lookup_write_wr b (ha 0 Nat.one_pos)⟩
      rw [receive, hbyte, andThen_next, receive, andThen_next, keepResult_resp]
    · obtain ⟨hv, _⟩ := held_receiveByte h hbyte
      obtain ⟨rb, hrun, hcells⟩ := ih hlast hv hc
      refine ⟨rb, ?_, fun a ha => (hcells a fun i hi => ?_).trans (h.lookup_write_wr b (ha 0 (Nat.succ_pos _)))⟩
      · rw [receive, hbyte, andThen_next, hrun, andThen_next, keepResult_passed]
      · exact index_succ_add s.cap s.wr i ▸ ha (i + 1) (Nat.succ_lt_succ hi)

/-- Settles O46: the run passes the empty ring into the parser, which assembles it in FB and judges it. -/
theorem frameRxResult : Obligations.FrameRxResult := by
  intro f s h hc h0 h1 hcur
  have header : ∀ i (_ : i < 2), f[i] = HEAD := fun i hi => by
    interval_cases i
    · exact h0
    · exact h1
  obtain ⟨hzero, hfb, hresults⟩ := feed_frame_with_header header hcur
  obtain ⟨rb, hrun, hcells⟩ := receive_empty f.toList (List.ne_nil_of_length_pos (by simp)) h hc
  rw [f.length_toList] at hcells
  refine ⟨rb, (feed f.toList s).1.fb, hfb, hcells, fun hacc => ?_, fun hrej => ?_⟩
  · rw [exec, execFrameRx, hrun, State.passed, hzero, hresults, if_pos hacc, f.length_toList]
    rfl
  · rw [exec, execFrameRx, hrun, State.passed, hzero, hresults, if_neg hrej, f.length_toList]
    rfl

end Sys2Proof.Machine

/-! # Proofs of 40_ring_buffer.md: what each ring command answers and writes, and the capacity of the buffer -/

namespace Sys2Proof.Machine

/-! ## What each command answers and writes -/

/-- Settles O16: a full buffer is left alone, and the insertion writes RB at `wr` only. -/
theorem pushResult : Obligations.PushResult := fun e s =>
  ⟨fun hfull => execPush_full hfull e,
    fun hroom => ⟨_, execPush_not_full hroom e, fun a => Memory.lookup_write s.rb s.wr a e⟩⟩

/-- On a full buffer the removal and the insertion of a PUSHC leave `count` as it was (R111). -/
theorem State.replaceOldest_of_full {s : State} (hfull : s.count = s.cap) (e : Byte) :
    s.removeOldest.insert e =
      { s with rb := Memory.write s.rb s.wr e, rd := (s.rd + 1) % s.cap, wr := (s.wr + 1) % s.cap } := by
  have hcount : s.count - 1 + 1 = s.count := Nat.sub_add_cancel (hfull ▸ s.cap_pos)
  show { s with rb := Memory.write s.rb s.wr e, rd := (s.rd + 1) % s.cap, wr := (s.wr + 1) % s.cap,
                count := s.count - 1 + 1 } = _
  rw [hcount]

/-- Settles O17: both branches insert at the same `wr`, and a full buffer gives up its oldest element first. -/
theorem pushcResult : Obligations.PushcResult := fun e s => by
  refine ⟨_, fun a => Memory.lookup_write s.rb s.wr a e, fun hfull => ?_, fun hroom => execPushc_not_full hroom e⟩
  rw [exec, execPushc_full hfull, State.replaceOldest_of_full hfull]
  rfl

/-- Settles O18: the two cases of POP. -/
theorem popResult : Obligations.PopResult := fun _ => ⟨execPop_empty, execPop_not_empty⟩

/-- Settles O19: PEEK branches on `idx` against `count`, and either way only answers. -/
theorem peekResult : Obligations.PeekResult := by
  intro idx s
  rw [exec, execPeek]
  refine ⟨fun hout => ?_, fun hin => ?_⟩
  · rw [if_pos hout]
    rfl
  · rw [if_neg (Nat.not_le_of_lt hin)]
    rfl

/-- Settles O20: RESET has one path, the three assignments of R114. -/
theorem resetResult : Obligations.ResetResult := fun _ => rfl

/-- A comparison as a query value (R116, R117). -/
theorem flagValue_beq (m n : Nat) : flagValue (m == n) = if m = n then 1 else 0 := by
  simp [flagValue]

/-- A legal `count` fits the 16 bits of `val` (R115). -/
theorem State.Inv.toNat_ofNat_count {s : State} (h : s.Inv) : (BitVec.ofNat 16 s.count).toNat = s.count := by
  have hle := h.count_le.trans s.cap_le
  rw [BitVec.toNat_ofNat, Nat.mod_eq_of_lt (by omega)]

/-- Settles O21: the value of COUNT is `count` modulo 2^16, and the other two values are the comparisons. -/
theorem queryResults : Obligations.QueryResults := by
  intro s
  refine ⟨⟨_, rfl, State.Inv.toNat_ofNat_count⟩, ?_, ?_⟩
  · rw [← flagValue_beq]
    rfl
  · rw [← flagValue_beq]
    rfl

/-! ## Runs of insertions -/

/-- Every run of commands completes, in a legal state of the same capacity if it began in one (R190). -/
theorem State.Inv.runInstrs_next {s : State} (h : s.Inv) (is : List Instr) :
    ∃ t, runInstrs is s = .next t ∧ t.Inv ∧ t.cap = s.cap := by
  induction is generalizing s with
  | nil => exact ⟨s, rfl, h, rfl⟩
  | cons i is ih =>
    obtain ⟨v, hv⟩ := exec_next i s
    obtain ⟨t, ht, htInv, hcap⟩ := ih (h.exec hv)
    refine ⟨t, ?_, htInv, hcap.trans (State.cap_congr s v (exec_outside i s v hv).1)⟩
    rw [runInstrs_cons, hv, andThen_next, ht]

/-- A run of PUSH commands for which there is room appends its bytes. -/
theorem held_runInstrs_push (bs : List Byte) {s t : State} (h : s.Inv) (hroom : s.count + bs.length ≤ s.cap)
    (ht : runInstrs (bs.map .push) s = .next t) : t.held = s.held ++ bs := by
  induction bs generalizing s with
  | nil => cases ht; exact (List.append_nil _).symm
  | cons b bs ih =>
    rw [List.length_cons] at hroom
    have hc : s.count ≠ s.cap := by omega
    rw [List.map_cons, runInstrs_cons, exec, execPush_not_full hc, andThen_next] at ht
    have hv : s.count + 1 + bs.length ≤ s.cap := by omega
    rw [ih ((h.insert (h.count_lt_iff.2 hc) b).respond _) hv ht, State.respond_held,
      s.held_insert b h.wr_eq (h.count_lt_iff.2 hc), List.append_assoc, List.singleton_append]

/-- The last `n` elements of a list are kept when only its last `n` elements are continued. -/
theorem rtake_rtake_append {α : Type} (n : Nat) (xs ys : List α) : (xs.rtake n ++ ys).rtake n = (xs ++ ys).rtake n := by
  simp only [List.rtake_eq_reverse_take_reverse, List.reverse_append, List.reverse_reverse, List.take_append,
    List.take_take]
  rw [min_eq_left (Nat.sub_le _ _)]

/-- A PUSHC keeps the last `C` of the held elements and the new one (R111). -/
theorem held_execPushc_rtake {s t : State} (h : s.Inv) {e : Byte} (ht : execPushc e s = .next t) :
    t.held = (s.held ++ [e]).rtake s.cap := by
  have hlen := s.held_length
  have hpos := s.cap_pos
  rw [held_execPushc h ht, List.rtake, List.length_append, List.length_singleton]
  by_cases hc : s.count = s.cap
  · rw [if_neg (by omega), show s.held.length + 1 - s.cap = 1 by omega, List.drop_append_of_le_length (by omega)]
  · have hlt := h.count_lt_iff.2 hc
    rw [if_pos (by omega), show s.held.length + 1 - s.cap = 0 by omega, List.drop_zero]

/-- A run of PUSHC commands keeps the last `C` of the held elements and its bytes. -/
theorem held_runInstrs_pushc (bs : List Byte) {s t : State} (h : s.Inv)
    (ht : runInstrs (bs.map .pushc) s = .next t) : t.held = (s.held ++ bs).rtake s.cap := by
  induction bs generalizing s with
  | nil =>
    cases ht
    rw [List.append_nil, List.rtake, State.held_length, Nat.sub_eq_zero_of_le h.count_le, List.drop_zero]
  | cons b bs ih =>
    obtain ⟨v, hv⟩ := exec_next (.pushc b) s
    have hcap : v.cap = s.cap := State.cap_congr s v (exec_outside _ s v hv).1
    rw [List.map_cons, runInstrs_cons, hv, andThen_next] at ht
    rw [ih (h.exec hv) ht, hcap, held_execPushc_rtake h hv, rtake_rtake_append, List.append_assoc,
      List.singleton_append]

/-- Settles O25: the last `C` elements of what was held and then `C` bytes are those bytes. -/
theorem pushcKeepsTheMostRecentElements : Obligations.PushcKeepsTheMostRecentElements := by
  intro bs s h hbs
  obtain ⟨t, ht, _⟩ := h.runInstrs_next (bs.map .pushc)
  refine ⟨t, ht, ?_⟩
  rw [held_runInstrs_pushc bs h ht, List.rtake, List.length_append, hbs, Nat.add_sub_cancel, List.drop_left]

/-- Settles O26: the pushes append their bytes to nothing, which fills the buffer; the rest is what ISFULL, PUSH and PUSHC
do on a full buffer. -/
theorem capacityProperty : Obligations.CapacityProperty := by
  intro bs e s h hempty hbs
  obtain ⟨t, ht, _, hcap⟩ := h.runInstrs_next (bs.map .push)
  have hheld : t.held = bs := by
    rw [held_runInstrs_push bs h (by omega) ht, State.held_eq_nil hempty, List.nil_append]
  have hfull : t.count = t.cap := by rw [← t.held_length, hheld, hbs, hcap]
  obtain ⟨_, _, hisFull⟩ := queryResults t
  rw [if_pos hfull] at hisFull
  obtain ⟨_, _, hpushc, _⟩ := pushcResult e t
  exact ⟨t, ht, hheld, hfull, hisFull, (pushResult e t).1 hfull, _, hpushc hfull, hfull, rfl⟩

end Sys2Proof.Machine

/-! # Proofs of 41_frame_parser.md: DSTEP, what the parser assembles, damaged frames, runs off the line, and DRAIN -/

namespace Sys2Proof.Machine

open Config

/-! ## What one byte can do (R148) -/

/-- A byte that is taken before the thirteenth is stored at `cur`, which advances (R141 to R143). -/
theorem parseByte_stores {b : Byte} {s : State} (hcur : s.cur.val < 12) (header : s.cur.val < 2 → b = HEAD) :
    parseByte b s = ((s.writeFb s.cur.val b).setCur ⟨s.cur.val + 1, by omega⟩, none) := by
  rcases (by omega : s.cur.val = 0 ∨ s.cur.val = 1 ∨ 2 ≤ s.cur.val) with h0 | h1 | h2
  · rw [parseByte_first b s h0, if_pos (header (by omega))]
    simp only [h0]
    rfl
  · rw [parseByte_second b s h1, if_pos (header (by omega))]
    simp only [h1]
    rfl
  · exact parseByte_body b s h2 hcur

/-- A byte that is no header is discarded while the parser searches for one (R141, R142). -/
theorem parseByte_discards {b : Byte} {s : State} (hcur : s.cur.val < 2) (hb : b ≠ HEAD) :
    parseByte b s = (s.setCur (if s.params.strayRestart = true then 0 else s.cur), none) := by
  rcases (by omega : s.cur.val = 0 ∨ s.cur.val = 1) with h0 | h1
  · have hzero : s.cur = 0 := Fin.ext h0
    rw [parseByte_first b s h0, if_neg hb, hzero, ite_self, ← hzero]
    rfl
  · rw [parseByte_second b s h1, if_neg hb]
    split <;> rfl

/-- Every byte is stored before the thirteenth, or discarded in the search for the header, or the thirteenth. -/
theorem parseByte_cases (b : Byte) (s : State) :
    (s.cur.val < 12 ∧ ∃ c : Fin 13, c.val = s.cur.val + 1 ∧ parseByte b s = ((s.writeFb s.cur.val b).setCur c, none)) ∨
    (s.cur.val < 2 ∧ parseByte b s = (s.setCur (if s.params.strayRestart = true then 0 else s.cur), none)) ∨
    (s.cur.val = 12 ∧ parseByte b s = ((s.writeFb 12 b).setCur 0,
      if Accepts (s.completed b) then some (s.readFb 6, s.readFb 7) else none)) := by
  by_cases hlast : s.cur.val = 12
  · exact .inr (.inr ⟨hlast, parseByte_last b s hlast⟩)
  · by_cases hnoise : s.cur.val < 2 ∧ b ≠ HEAD
    · exact .inr (.inl ⟨hnoise.1, parseByte_discards hnoise.1 hnoise.2⟩)
    · have header : s.cur.val < 2 → b = HEAD := fun h2 => not_not.1 fun hb => hnoise ⟨h2, hb⟩
      exact .inl ⟨by omega, _, rfl, parseByte_stores (by omega) header⟩

/-- A result is that of a completed accepted frame (R144, R151). -/
theorem parseByte_result {b : Byte} {s : State} {r : Result} (h : (parseByte b s).2 = some r) :
    s.cur.val = 12 ∧ Accepts (s.completed b) ∧ r = (s.readFb 6, s.readFb 7) := by
  rcases parseByte_cases b s with ⟨_, _, _, e⟩ | ⟨_, e⟩ | ⟨hlast, e⟩ <;> rw [e] at h
  · cases h
  · cases h
  · by_cases hacc : Accepts (s.completed b)
    · rw [if_pos hacc] at h; cases h
      exact ⟨hlast, hacc, rfl⟩
    · rw [if_neg hacc] at h; cases h

/-- The cursor advances by at most one byte, and gives up thirteen for a result. -/
theorem parseByte_progress (b : Byte) (s : State) :
    13 * (parseByte b s).2.toList.length + (parseByte b s).1.cur.val ≤ s.cur.val + 1 := by
  rcases parseByte_cases b s with ⟨_, c, hc, e⟩ | ⟨_, e⟩ | ⟨hlast, e⟩ <;> rw [e]
  · simp [hc]
  · cases s.params.strayRestart <;> simp
  · by_cases hacc : Accepts (s.completed b) <;> simp [hacc, hlast]

/-- Bytes fed to the parser bring at most one result for every thirteen of them, counted from the cursor (R147). -/
theorem feed_progress (bs : List Byte) (s : State) :
    13 * (feed bs s).2.length + (feed bs s).1.cur.val ≤ s.cur.val + bs.length := by
  induction bs generalizing s with
  | nil => simp
  | cons b bs ih =>
    have hbyte := parseByte_progress b s
    have hrest := ih (parseByte b s).1
    simp only [feed_cons, List.length_append, List.length_cons]
    omega

/-! ## DSTEP -/

/-- DSTEP stores its byte as the parser does, and answers that it consumed one (R147). -/
theorem execDstep_stores {s : State} (hc : s.count ≠ 0) (hcur : s.cur.val < 12)
    (header : s.cur.val < 2 → s.readRb s.rd = HEAD) :
    execDstep s = .next (((s.removeOldest.writeFb s.cur.val (s.readRb s.rd)).setCur ⟨s.cur.val + 1, by omega⟩).respond
      (.flag true)) := by
  rw [execDstep_not_empty hc, parseByte_stores (s := s.removeOldest) hcur header]
  rfl

/-- Settles O27: a header byte is stored, any other discarded. -/
theorem dstepSearchesForTheHeader : Obligations.DstepSearchesForTheHeader := by
  intro s hc hcur
  refine ⟨fun hb => ⟨_, _, execDstep_stores hc (by omega) fun _ => hb, rfl, fun i => ?_⟩, fun hb => ?_⟩
  · rw [← hb]
    exact Memory.lookup_write s.fb s.cur.val i (s.readRb s.rd)
  · rw [exec, execDstep_not_empty hc, parseByte_discards (s := s.removeOldest) hcur hb]
    rfl

/-- Settles O28: past the header every byte is stored. -/
theorem dstepStoresTheBody : Obligations.DstepStoresTheBody := fun s hc h2 h12 =>
  ⟨_, _, execDstep_stores hc h12 fun h => absurd h (by omega), rfl, fun i => Memory.lookup_write _ _ i _⟩

/-- Settles O29: the thirteenth byte is stored at index 12, and the frame is judged by `Accepts`. -/
theorem dstepCompletesTheFrame : Obligations.DstepCompletesTheFrame := by
  intro s hc hcur
  refine ⟨_, fun i => Memory.lookup_write s.fb 12 i (s.readRb s.rd), fun hacc => ?_, fun hrej => ?_⟩
  · have hacc : Accepts (s.removeOldest.completed (s.readRb s.rd)) := hacc
    rw [exec, execDstep_not_empty hc, parseByte_last _ s.removeOldest hcur, if_pos hacc]
    rfl
  · have hrej : ¬ Accepts (s.removeOldest.completed (s.readRb s.rd)) := hrej
    rw [exec, execDstep_not_empty hc, parseByte_last _ s.removeOldest hcur, if_neg hrej]
    rfl

/-- Settles O30: the empty case of DSTEP. -/
theorem dstepOnAnEmptyRing : Obligations.DstepOnAnEmptyRing := fun _ => execDstep_empty

/-! ## DSTEP as a step of the parser on the held elements -/

/-- The held elements are the byte at `rd` and those that its removal leaves. -/
theorem State.Inv.held_eq_cons {s : State} (h : s.Inv) (hc : s.count ≠ 0) :
    s.held = s.readRb s.rd :: s.removeOldest.held := by
  have hhead : s.held.head? = some (s.readRb s.rd) := by rw [s.held_head? h.rd_lt, if_neg hc]
  rw [s.held_removeOldest, List.drop_one]
  exact List.eq_cons_of_mem_head? hhead

/-- An element less is held once the oldest has gone. -/
theorem State.count_eq_succ {s t : State} {x : Byte} (h : s.held = x :: t.held) : s.count = t.count + 1 := by
  rw [← s.held_length, h, List.length_cons, t.held_length]

theorem SameParser.trans {s t u : State} (h : SameParser s t) (h' : SameParser t u) : SameParser s u :=
  ⟨h'.params.trans h.params, h'.cur.trans h.cur, h'.fb.trans h.fb⟩

/-- `t` is where the parser of `s` has consumed `x`, with the response that delivers its result (R147). -/
structure Parsed (x : Byte) (s t : State) : Prop where
  parser : SameParser (parseByte x s).1 t
  resp   : t.resp = some (deliver (parseByte x s).2)

/-- DSTEP feeds the parser the oldest element (R147). -/
theorem execDstep_parsed {s t : State} (h : s.Inv) (hc : s.count ≠ 0) (ht : execDstep s = .next t) :
    ∃ x, s.held = x :: t.held ∧ Parsed x s t := by
  have hsame : SameParser s s.removeOldest := ⟨rfl, rfl, rfl⟩
  obtain ⟨hresult, hparser⟩ := hsame.parseByte (s.readRb s.rd)
  rw [execDstep_not_empty hc] at ht
  cases ht
  refine ⟨s.readRb s.rd, ?_, hparser.trans ⟨rfl, rfl, rfl⟩, by rw [← hresult]; rfl⟩
  rw [State.respond_held, parseByte_held, h.held_eq_cons hc]

/-- DSTEP writes neither DOUT nor `wr` (R24, R22). -/
theorem execDstep_dout_wr {s t : State} (ht : execDstep s = .next t) : t.dout = s.dout ∧ t.wr = s.wr := by
  rcases execDstep_cases s with ⟨_, e⟩ | ⟨_, e⟩ <;> (rw [e] at ht; cases ht)
  · exact ⟨rfl, rfl⟩
  · obtain ⟨_, hwr, _, _, hdout, _⟩ := parseByte_ring (s.readRb s.rd) s.removeOldest
    exact ⟨hdout, hwr⟩

/-- A DSTEP and the DSTEPs behind it. -/
theorem runInstrs_dsteps_succ {s u : State} (hu : execDstep s = .next u) (n : Nat) :
    runInstrs (List.replicate (n + 1) .dstep) s = runInstrs (List.replicate n .dstep) u := by
  rw [List.replicate_succ, runInstrs_cons, exec, hu, andThen_next]

/-- `n` DSTEP commands feed the parser the `n` oldest elements (R147, R149). -/
theorem runInstrs_dsteps (n : Nat) {s : State} (h : s.Inv) (hn : n ≤ s.count) :
    ∃ t, runInstrs (List.replicate n .dstep) s = .next t ∧ t.held = s.held.drop n ∧
      SameParser (feed (s.held.take n) s).1 t ∧ t.dout = s.dout ∧ t.wr = s.wr := by
  induction n generalizing s with
  | zero => exact ⟨s, rfl, rfl, ⟨rfl, rfl, rfl⟩, rfl, rfl⟩
  | succ n ih =>
    obtain ⟨u, hu⟩ := exec_next .dstep s
    obtain ⟨x, hheld, hparsed⟩ := execDstep_parsed h (by omega) hu
    have hcount := State.count_eq_succ hheld
    obtain ⟨t, ht, hrest, hparser, hdout, hwr⟩ := ih (h.execDstep hu) (by omega)
    obtain ⟨_, hsame⟩ := hparsed.parser.feed (u.held.take n)
    obtain ⟨hdout', hwr'⟩ := execDstep_dout_wr hu
    rw [runInstrs_dsteps_succ hu, hheld]
    exact ⟨t, ht, hrest, hsame.trans hparser, hdout.trans hdout', hwr.trans hwr'⟩

/-- Settles O32: by induction on `n`, each DSTEP feeds the parser the oldest of the elements still held. -/
theorem dstepsFeedTheParser : Obligations.DstepsFeedTheParser := by
  intro n s h hn
  obtain ⟨t, ht, hheld, hparser, hdout, hwr⟩ := runInstrs_dsteps n h hn
  exact ⟨t, ht, hheld, hparser.cur, hparser.fb, hdout, hwr⟩

/-- Settles O31: parsers that agree answer alike, and feeding in two groups is feeding the whole. -/
theorem parserDependsOnItsOwnStateOnly : Obligations.ParserDependsOnItsOwnStateOnly := by
  intro xs ys s t hstray hcur hbody
  have hagree : ParserAgree s t := ⟨hstray, hcur, hbody⟩
  obtain ⟨hresults, hafter⟩ := hagree.feed (xs ++ ys)
  rw [hresults, hafter.cur, feed_append]
  exact ⟨rfl, rfl⟩

/-! ## Noise and headers (R146, R152) -/

/-- Bytes without a header leave a parser that searches for one as it is: for the first header always, for the second
with STRAY_RESTART = false (R141, R142). -/
theorem feed_noise_append {noise : List Byte} {s : State} (hcur : s.cur.val < 2)
    (hstay : s.cur = 0 ∨ s.params.strayRestart = false) (hnoise : HEAD ∉ noise) (rest : List Byte) :
    feed (noise ++ rest) s = feed rest s := by
  induction noise with
  | nil => rfl
  | cons b noise ih =>
    obtain ⟨hb, hnoise⟩ := List.ne_and_not_mem_of_not_mem_cons hnoise
    have hkept : (if s.params.strayRestart = true then 0 else s.cur) = s.cur := by
      rcases hstay with h | h <;> simp [h]
    rw [List.cons_append, feed_cons, parseByte_discards hcur (Ne.symm hb), hkept]
    exact ih hnoise

/-- The doubled header, index by index. -/
theorem header_of_bytes {f : Frame} (h0 : f[0] = HEAD) (h1 : f[1] = HEAD) : ∀ i (_ : i < 2), f[i] = HEAD := by
  intro i hi
  interval_cases i
  · exact h0
  · exact h1

/-- Settles O33: without the noise before either header the bytes are those of the frame, which is assembled. -/
theorem assembledByteSequences : Obligations.AssembledByteSequences := by
  intro noise gap body f s hstray hcur hnoise hgap _ hf
  have hfirst : feed [HEAD] s = ((s.writeFb 0 HEAD).setCur 1, []) := by
    rw [feed_cons, parseByte_first HEAD s (congrArg Fin.val hcur), if_pos rfl]
    rfl
  have hgone := feed_noise_append (s := (feed [HEAD] s).1) (by simp [hfirst]) (.inr (by rw [hfirst]; exact hstray)) hgap
  have hfeed : feed (noise ++ [HEAD] ++ gap ++ [HEAD] ++ body) s = feed f.toList s :=
    calc feed (noise ++ [HEAD] ++ gap ++ [HEAD] ++ body) s
        = feed ([HEAD] ++ (gap ++ ([HEAD] ++ body))) s := by
          rw [List.append_assoc, List.append_assoc, List.append_assoc]
          exact feed_noise_append (by simp [hcur]) (.inl hcur) hnoise _
      _ = feed ([HEAD] ++ ([HEAD] ++ body)) s := by rw [feed_append, hgone, ← feed_append]
      _ = feed f.toList s := by rw [hf, ← List.append_assoc]; rfl
  have header : ∀ i (_ : i < 2), f[i] = HEAD :=
    header_of_bytes (List.getElem_of_eq hf (by simp)) (List.getElem_of_eq hf (by simp))
  obtain ⟨hzero, hlookup, hresults⟩ := feed_frame_with_header header hcur
  refine ⟨_, _, hfeed, hzero, fun i hi => ?_, fun hacc => hresults.trans (if_pos hacc),
    fun hrej => hresults.trans (if_neg hrej)⟩
  rw [State.readFb, hlookup i hi, Option.getD_some, byteAt_eq_getElem f i hi]

/-- An accepted frame, after noise, gives its result and leaves the parser at the search for the first header. -/
theorem feed_noise_accepted {noise : List Byte} {f : Frame} {s : State} (hcur : s.cur = 0) (hnoise : HEAD ∉ noise)
    (hf : AcceptedFrame f) :
    (feed (noise ++ f.toList) s).1.cur = 0 ∧ (feed (noise ++ f.toList) s).2 = [frameResult f] := by
  obtain ⟨h0, h1, hacc⟩ := hf
  obtain ⟨hzero, _, hresults⟩ := feed_frame_with_header (header_of_bytes h0 h1) hcur
  rw [feed_noise_append (by simp [hcur]) (.inl hcur) hnoise]
  exact ⟨hzero, hresults.trans (if_pos hacc)⟩

/-- Settles O34, by induction on the segments: each leaves the parser where the next begins. -/
theorem resynchronisationOverGarbage : Obligations.ResynchronisationOverGarbage := by
  intro segments tail s hcur hsegments htail
  induction segments generalizing s with
  | nil =>
    refine ⟨s, ?_, hcur⟩
    simpa using feed_noise_append (by simp [hcur]) (.inl hcur) htail []
  | cons g segments ih =>
    obtain ⟨hg, hrest⟩ := List.forall_mem_cons.1 hsegments
    obtain ⟨hzero, hresult⟩ := feed_noise_accepted hcur hg.1 hg.2
    obtain ⟨t, ht, htcur⟩ := ih _ hzero hrest
    refine ⟨t, ?_, htcur⟩
    rw [List.flatMap_cons, List.append_assoc, feed_append, hresult, ht]
    rfl

/-! ## Damaged frames (R152 (c)) -/

/-- Acceptance of a frame with LEN 0x09: its window is bytes 2 to 9. -/
theorem accepts_iff_of_len9 {f : Nat → Byte} (h : f 2 = 0x09#8) : Accepts f ↔ windowXor f 9 = f 10 := by
  rw [Accepts, h]
  exact and_iff_right (by decide)

/-- A frame with one byte changed by `d`, as bytes by index. -/
def changedByte (f : Nat → Byte) (i : Nat) (d : Byte) : Nat → Byte := fun j => if j = i then f i ^^^ d else f j

theorem changedByte_same (f : Nat → Byte) (i : Nat) (d : Byte) : changedByte f i d i = f i ^^^ d := if_pos rfl

theorem changedByte_of_ne (f : Nat → Byte) {i j : Nat} (d : Byte) (h : j ≠ i) : changedByte f i d j = f j := if_neg h

theorem byteAt_set_xor (f : Frame) (i : Nat) (hi : i < 13) (d : Byte) (j : Nat) (hj : j < 13) :
    byteAt (f.set i (f[i] ^^^ d) hi) j = changedByte (byteAt f) i d j := by
  rw [byteAt_set f i j hi hj, changedByte, byteAt_eq_getElem f i hi]

theorem accepts_set_xor (f : Frame) (i : Nat) (hi : i < 13) (d : Byte) :
    Accepts (byteAt (f.set i (f[i] ^^^ d) hi)) ↔ Accepts (changedByte (byteAt f) i d) :=
  accepts_congr _ _ (byteAt_set_xor f i hi d)

/-- A byte above the window does not change its XOR. -/
theorem windowXor_changedByte_above (f : Nat → Byte) {i n : Nat} (d : Byte) (h : n < i) :
    windowXor (changedByte f i d) n = windowXor f n :=
  windowXor_congr f _ n fun _ _ hj => changedByte_of_ne f d (by omega)

/-- With LEN 0x09, a change of a byte of the window or of the checksum byte is rejected, and one of the tail is not. -/
theorem accepts_changedByte {f : Nat → Byte} {i : Nat} {d : Byte} (hf : Accepts f) (hlen : f 2 = 0x09#8) (hd : d ≠ 0)
    (hi : 3 ≤ i) : Accepts (changedByte f i d) ↔ 10 < i := by
  have hlen' : changedByte f i d 2 = 0x09#8 := (changedByte_of_ne f d (by omega)).trans hlen
  have hxor : windowXor f 9 = f 10 := (accepts_iff_of_len9 hlen).1 hf
  have hne : ∀ x : Byte, x ^^^ d ≠ x := fun x hx => hd (by simpa using hx)
  rw [accepts_iff_of_len9 hlen']
  rcases (by omega : i ≤ 9 ∨ i = 10 ∨ 10 < i) with h9 | rfl | h10
  · have hshift : windowXor (changedByte f i d) 9 = windowXor f 9 ^^^ d := windowXor_shift f 9 i d (by omega) h9
    rw [hshift, changedByte_of_ne f d (by omega), ← hxor]
    exact iff_of_false (hne _) (by omega)
  · rw [windowXor_changedByte_above f d (by decide), changedByte_same, ← hxor]
    exact iff_of_false (hne _).symm (by decide)
  · rw [windowXor_changedByte_above f d (by omega), changedByte_of_ne f d (by omega)]
    exact iff_of_true hxor h10

/-- Settles O36: the damaged frame is judged by `accepts_changedByte`, and where it stays valid its bytes 6 and 7 are
the frame's. -/
theorem damagedWindowByteIsRejected : Obligations.DamagedWindowByteIsRejected := by
  rintro f i d hi ⟨_, _, hacc⟩ hlen hd h3
  have hjudged : Accepts (byteAt (f.set i (f[i] ^^^ d) hi)) ↔ 10 < i :=
    (accepts_set_xor f i hi d).trans (accepts_changedByte hacc hlen hd h3)
  rw [validate_eq]
  by_cases h10 : i ≤ 10
  · rw [if_neg (mt hjudged.1 (by omega)), if_pos h10]
  · rw [if_pos (hjudged.2 (by omega)), if_neg h10, byteAt_set_xor f i hi d 6 (by decide),
      byteAt_set_xor f i hi d 7 (by decide), changedByte_of_ne _ d (by omega), changedByte_of_ne _ d (by omega)]
    rfl

/-- A frame whose LEN is changed: the window has another upper index, and its XOR another first byte. -/
theorem accepts_changedLen {f : Nat → Byte} {d : Byte} {n : Nat} (hn : (f 2 ^^^ d).toNat = n) :
    Accepts (changedByte f 2 d) ↔ n ≤ 12 ∧ (if n < 2 then 0x00#8 else windowXor f n ^^^ d) = f 10 := by
  have hwindow : windowXor (changedByte f 2 d) n = if n < 2 then 0x00#8 else windowXor f n ^^^ d := by
    by_cases h : n < 2
    · rw [if_pos h]
      interval_cases n <;> rfl
    · rw [if_neg h]
      exact windowXor_shift f n 2 d le_rfl (by omega)
  rw [Accepts, changedByte_same, hn, hwindow, changedByte_of_ne f d (by decide)]

/-- Settles O37: bits 0, 1 and 3 move the end of the window to 8, 11 and 1, the others out of the frame. -/
theorem flippedLengthBit : Obligations.FlippedLengthBit := by
  rintro f bit ⟨_, _, hacc⟩ hlen hbit
  have hlen' : byteAt f 2 = 0x09#8 := hlen
  have hxor : windowXor (byteAt f) 8 ^^^ f[9] = f[10] := (accepts_iff_of_len9 hlen').1 hacc
  have h11 : windowXor (byteAt f) 11 = f[11] := by
    show windowXor (byteAt f) 8 ^^^ f[9] ^^^ f[10] ^^^ f[11] = f[11]
    rw [hxor, BitVec.xor_self, BitVec.zero_xor]
  have hvalid : (validate (f.set 2 (0x09#8 ^^^ (1#8 <<< bit)))).isSome = true ↔
      Accepts (changedByte (byteAt f) 2 (1#8 <<< bit)) := by
    rw [← hlen, ← accepts_set_xor f 2 (by decide), validate_eq]
    exact Option.isSome_ite
  have hread : byteAt f 10 = f[10] := rfl
  have hcases : ∀ bit < 8, bit = 0 ∨ bit = 1 ∨ bit = 3 ∨
      bit ≠ 0 ∧ bit ≠ 1 ∧ bit ≠ 3 ∧ 12 < (0x09#8 ^^^ (1#8 <<< bit)).toNat := by decide
  rw [hvalid]
  rcases hcases bit hbit with rfl | rfl | rfl | ⟨h0, h1, h3, hout⟩
  · rw [accepts_changedLen (n := 8) (by rw [hlen']; rfl), hread, ← hxor]
    simp [eq_comm]
  · rw [accepts_changedLen (n := 11) (by rw [hlen']; rfl), hread, h11]
    simp [eq_comm]
  · rw [accepts_changedLen (n := 1) (by rw [hlen']; rfl), hread]
    simp [eq_comm]
  · rw [accepts_changedLen rfl, hlen']
    exact iff_of_false (fun h => absurd h.1 (Nat.not_le.2 hout)) (by simp [h0, h1, h3])

/-! ## A run off the line feeds the parser -/

/-- An insertion leaves the parser alone (R110, R111). -/
theorem execInsert_sameParser {b : Byte} {s t : State} (ht : execInsert b s = .next t) : SameParser s t := by
  rcases execInsert_cases b s with ⟨_, _, e⟩ | ⟨_, _, e⟩ | ⟨_, e⟩ <;>
    (rw [e] at ht; cases ht; exact ⟨rfl, rfl, rfl⟩)

/-- A byte off the line feeds the parser the oldest byte of its backlog. -/
theorem receiveByte_parsed {b : Byte} {s v : State} (h : s.Inv) (hv : receiveByte b s = .next v) :
    ∃ x, s.backlog [b] = x :: v.held ∧ Parsed x s v := by
  obtain ⟨t, u, ht, hc, hu, hu'⟩ := receiveByte_next b s
  rw [hu'] at hv; cases hv
  obtain ⟨x, hheld, hparser, hresp⟩ := execDstep_parsed (h.execInsert b ht) hc hu
  obtain ⟨hresult, hsame⟩ := (execInsert_sameParser ht).parseByte x
  refine ⟨x, (held_execInsert h ht).symm.trans hheld, hsame.trans hparser, ?_⟩
  rw [hresp, hresult]

/-- Keeping a response leaves the parser alone. -/
theorem keepResult_sameParser (o : Option Response) (t : State) : SameParser t (keepResult o t) := by
  rcases keepResult_cases o t with e | ⟨r, e⟩ <;> rw [e] <;> exact ⟨rfl, rfl, rfl⟩

/-- The response kept is that of the first result. -/
theorem keepResult_deliver {r : Option Result} {rs : List Result} {t : State} (ht : t.resp = some (deliver rs.head?)) :
    (keepResult (some (deliver r)) t).resp = some (deliver (r.toList ++ rs).head?) := by
  cases r with
  | none => exact ht
  | some r => rfl

/-- A run of bytes feeds the parser as many of the oldest bytes of its backlog, and the response is that of their first
result (entry 14). -/
theorem receive_feeds (bs : List Byte) (hbs : bs ≠ []) {s t : State} (h : s.Inv) (ht : receive bs s = .next t) :
    SameParser (feed ((s.backlog bs).take bs.length) s).1 t ∧
      t.resp = some (deliver (feed ((s.backlog bs).take bs.length) s).2.head?) := by
  induction bs generalizing s t with
  | nil => exact absurd rfl hbs
  | cons b bs ih =>
    obtain ⟨_, v, _, _, _, hv⟩ := receiveByte_next b s
    obtain ⟨hvInv, hroom, _, _⟩ := held_receiveByte h hv
    obtain ⟨x, hx, hparser, hresp⟩ := receiveByte_parsed h hv
    have hbacklog : (s.backlog (b :: bs)).take (b :: bs).length = x :: (v.backlog bs).take bs.length := by
      rw [s.backlog_cons, hx, State.backlog_of_not_full hvInv hroom]
      rfl
    rw [receive, hv, andThen_next, andThen_eq_next] at ht
    obtain ⟨w, hw, hkeep⟩ := ht
    cases hkeep
    rw [hbacklog, feed_cons]
    by_cases hlast : bs = []
    · subst hlast
      cases hw
      rw [keepResult_resp, hresp, List.length_nil, List.take_zero, feed_nil, List.append_nil, Option.head?_toList]
      exact ⟨hparser, rfl⟩
    · obtain ⟨hlater, hrest⟩ := ih hlast hvInv hw
      obtain ⟨hresults, hsame⟩ := hparser.feed ((v.backlog bs).take bs.length)
      rw [hresults] at hrest
      exact ⟨(hsame.trans hlater).trans (keepResult_sameParser v.resp w), hresp ▸ keepResult_deliver hrest⟩

/-- Thirteen bytes bring at most one result (R147). -/
theorem feed_results_le_one {bs : List Byte} (hbs : bs.length ≤ 13) (s : State) : (feed bs s).2.length ≤ 1 := by
  have := feed_progress bs s
  omega

/-- The response that delivers the first of some results, written out. -/
theorem deliver_head? (rs : List Result) :
    deliver rs.head? = ⟨true, none, !rs.isEmpty, rs.head?.map Prod.fst, rs.head?.map Prod.snd, none⟩ := by
  cases rs <;> rfl

/-- FRAME_RX in a legal state: what is then held, what the parser has taken, and the response. -/
theorem execFrameRx_feeds (f : Frame) {s : State} (h : s.Inv) :
    ∃ t, exec (.frameRx f) s = .next t ∧ t.held = (s.backlog f.toList).drop 13 ∧
      SameParser (feed ((s.backlog f.toList).take 13) s).1 t ∧
      t.resp = some (deliver (feed ((s.backlog f.toList).take 13) s).2.head?) := by
  obtain ⟨t, ht⟩ := receive_next f.toList s
  have hne : f.toList ≠ [] := List.ne_nil_of_length_pos (by simp)
  have hheld := held_receive f.toList h (.inl hne) ht
  have hfeeds := receive_feeds f.toList hne h ht
  rw [f.length_toList] at hheld hfeeds
  exact ⟨t, ht, hheld, hfeeds⟩

/-- Settles O47: thirteen bytes of the backlog are fed, and bring at most one result. -/
theorem frameRxFeedsTheParser : Obligations.FrameRxFeedsTheParser := by
  intro f s h
  obtain ⟨t, ht, hheld, hparser, hresp⟩ := execFrameRx_feeds f h
  exact ⟨t, _, _, rfl, ht, hparser.cur, hparser.fb, hheld, feed_results_le_one (List.length_take_le _ _) s,
    hresp.trans (congrArg some (deliver_head? _))⟩

/-! ## A run and thirteen DSTEPs -/

/-- Parsers that agree, with the same FB, have the same FB after the same bytes. -/
theorem ParserAgree.feed_fb {s t : State} (h : ParserAgree s t) (hfb : t.fb = s.fb) (bs : List Byte) :
    (Machine.feed bs t).1.fb = (Machine.feed bs s).1.fb := by
  induction bs generalizing s t with
  | nil => exact hfb
  | cons b bs ih =>
    have hbyte : (Machine.parseByte b t).1.fb = (Machine.parseByte b s).1.fb := by
      rw [parseByte_fb, parseByte_fb, h.cur, hfb]
    exact ih (h.parseByte b).2 hbyte

/-- DSTEPs that end at the latest with the first completed frame answer with the result that their bytes bring. -/
theorem runInstrs_dsteps_resp (n : Nat) {s t : State} (h : s.Inv) (hn : n + 1 ≤ s.count)
    (hcur : s.cur.val + (n + 1) ≤ 13) (ht : runInstrs (List.replicate (n + 1) .dstep) s = .next t) :
    t.resp = some (deliver (feed (s.held.take (n + 1)) s).2.head?) := by
  induction n generalizing s with
  | zero =>
    obtain ⟨u, hu⟩ := exec_next .dstep s
    obtain ⟨x, hheld, _, hresp⟩ := execDstep_parsed h (by omega) hu
    rw [runInstrs_dsteps_succ hu] at ht; cases ht
    rw [hheld, List.take_succ_cons, List.take_zero, feed_cons, feed_nil, List.append_nil, Option.head?_toList, hresp]
  | succ n ih =>
    obtain ⟨u, hu⟩ := exec_next .dstep s
    obtain ⟨x, hheld, hparser, _⟩ := execDstep_parsed h (by omega) hu
    have hcount := State.count_eq_succ hheld
    have hprogress := parseByte_progress x s
    have hnone : (parseByte x s).2.toList = [] := List.eq_nil_of_length_eq_zero (by omega)
    have hucur : u.cur.val + (n + 1) ≤ 13 := by rw [hparser.cur]; omega
    rw [runInstrs_dsteps_succ hu] at ht
    rw [ih (h.execDstep hu) (by omega) hucur ht, hheld, List.take_succ_cons, feed_cons, hnone,
      (hparser.feed _).1]
    rfl

/-- Settles O49: both feed the run's bytes to parsers that agree. -/
theorem frameRxAgreesWithDsteps : Obligations.FrameRxAgreesWithDsteps := by
  intro f s u v h hc hu huheld hstray hcur hfb hv
  have hagree : ParserAgree s u := ⟨hstray, hcur, fun i _ => State.readFb_congr s u hfb i⟩
  have hlen : f.toList.length = 13 := f.length_toList
  have hucount : u.count = 13 := by rw [← u.held_length, huheld, hlen]
  have hbacklog : s.backlog f.toList = f.toList := by
    rw [State.backlog_of_not_full h (hc ▸ Nat.ne_of_lt s.cap_pos), State.held_eq_nil hc, List.nil_append]
  obtain ⟨t, ht, htheld, htparser, htresp⟩ := execFrameRx_feeds f h
  obtain ⟨v', hv', hvheld, hvparser, _⟩ := runInstrs_dsteps 13 hu hucount.ge
  obtain rfl : v = v' := by rw [hv'] at hv; cases hv; rfl
  rw [hbacklog] at htheld htparser htresp
  rw [huheld] at hvheld hvparser
  rw [List.take_of_length_le hlen.le] at htparser htresp hvparser
  obtain ⟨hresults, hafter⟩ := hagree.feed f.toList
  refine ⟨t, ht, ?_, ?_, htheld.trans hvheld.symm, fun hzero => ?_⟩
  · rw [htparser.cur, hvparser.cur, hafter.cur]
  · rw [htparser.fb, hvparser.fb, hagree.feed_fb hfb]
  · rw [htresp, runInstrs_dsteps_resp 12 hu hucount.ge (by rw [hcur, hzero]; decide) hv, huheld,
      List.take_of_length_le hlen.le, hresults]

/-! ## Where results come from (R151) -/

/-- A DSTEP in `s` completes an accepted frame, and `r` is the response that delivers its result (R144). -/
structure Completes (s : State) (r : Response) : Prop where
  held    : s.count ≠ 0
  cur     : s.cur.val = 12
  accepts : Accepts (s.completed (s.readRb s.rd))
  raddr   : r.raddr = some (s.readFb 6)
  rstat   : r.rstat = some (s.readFb 7)

/-- A DSTEP delivers a result only when it completes an accepted frame. -/
theorem execDstep_completes {s t : State} {r : Response} (ht : execDstep s = .next t) (hr : t.resp = some r)
    (hrv : r.rv = true) : Completes s r := by
  rcases execDstep_cases s with ⟨_, e⟩ | ⟨hc, e⟩ <;> (rw [e] at ht; cases ht; cases hr)
  · cases hrv
  · cases hresult : (parseByte (s.readRb s.rd) s.removeOldest).2 with
    | none => rw [hresult] at hrv; cases hrv
    | some result =>
      obtain ⟨hcur, hacc, rfl⟩ := parseByte_result hresult
      exact ⟨hc, hcur, hacc, rfl, rfl⟩

/-- Commands one after the other, in two groups. -/
theorem runInstrs_append (is js : List Instr) (s : State) :
    runInstrs (is ++ js) s = andThen (runInstrs is s) (runInstrs js) := by
  induction is generalizing s with
  | nil => rfl
  | cons i is ih =>
    rw [List.cons_append, runInstrs_cons, runInstrs_cons]
    cases exec i s with
    | next t => exact ih t
    | fault r => rfl
    | refused r => rfl

/-- The state of a run off the line at the DSTEP behind its byte `n`: its commands so far have led there. -/
def AtDstep (bs : List Byte) (s : State) (n : Nat) (b : Byte) (v : State) : Prop :=
  runInstrs (receiveCommands s.params (bs.take n) ++ [insertCommand s.params.pushPolicy b]) s = .next v

theorem atDstep_zero {b : Byte} {s v : State} (hv : execInsert b s = .next v) (bs : List Byte) :
    AtDstep bs s 0 b v := by
  rw [AtDstep, List.take_zero]
  show runInstrs [insertCommand s.params.pushPolicy b] s = .next v
  rw [runInstrs_cons, exec_insertCommand, hv]
  rfl

theorem AtDstep.succ {b c : Byte} {bs : List Byte} {s u v : State} {n : Nat} (h : AtDstep bs u n c v)
    (hu : receiveByte b s = .next u) : AtDstep (b :: bs) s (n + 1) c v := by
  obtain ⟨t, ht, hd⟩ := (andThen_eq_next _ _ _).1 hu
  have hp : u.params = s.params := (exec_outside .dstep t u hd).1.trans (execInsert_sameParser ht).params
  rw [AtDstep, runInstrs_append] at h ⊢
  rw [List.take_succ_cons, runInstrs_receiveCommands_cons hu, ← hp]
  exact h

/-- The response that stands after keeping one is that one or the one that stood. -/
theorem keepResult_resp_eq {o : Option Response} {t : State} {r : Response} (h : (keepResult o t).resp = some r) :
    o = some r ∨ t.resp = some r := by
  cases o with
  | none => exact .inr h
  | some q =>
    rw [keepResult] at h
    split at h
    · exact .inl h
    · exact .inr h

/-- A run delivers a result only when the DSTEP behind one of its bytes completes an accepted frame. -/
theorem receive_completes (bs : List Byte) (hbs : bs ≠ []) {s t : State} {r : Response} (ht : receive bs s = .next t)
    (hr : t.resp = some r) (hrv : r.rv = true) :
    ∃ (n : Nat) (h : n < bs.length) (v : State), AtDstep bs s n bs[n] v ∧ Completes v r := by
  induction bs generalizing s t with
  | nil => exact absurd rfl hbs
  | cons b bs ih =>
    obtain ⟨v, u, hv, _, hu, hb⟩ := receiveByte_next b s
    rw [receive, hb, andThen_next, andThen_eq_next] at ht
    obtain ⟨w, hw, hkeep⟩ := ht
    cases hkeep
    by_cases hfirst : u.resp = some r
    · exact ⟨0, Nat.succ_pos _, v, atDstep_zero hv _, execDstep_completes hu hfirst hrv⟩
    · have hlater : w.resp = some r := (keepResult_resp_eq hr).resolve_left hfirst
      by_cases hlast : bs = []
      · subst hlast; cases hw
        exact absurd hlater hfirst
      · obtain ⟨n, hn, x, hx, hcompletes⟩ := ih hlast hw hlater
        exact ⟨n + 1, Nat.succ_lt_succ hn, x, hx.succ hb, hcompletes⟩

/-- A command other than DSTEP and FRAME_RX delivers no result (R88). -/
theorem exec_rv_eq_false {i : Instr} (hd : i ≠ .dstep) (hf : ∀ f, i ≠ .frameRx f) {s t : State} {r : Response}
    (ht : exec i s = .next t) (hr : t.resp = some r) : r.rv = false := by
  cases i with
  | dstep => exact absurd rfl hd
  | frameRx f => exact absurd rfl (hf f)
  | push e => simp only [exec, execPush] at ht; split at ht <;> (cases ht; cases hr; rfl)
  | pop => simp only [exec, execPop] at ht; split at ht <;> (cases ht; cases hr; rfl)
  | peek idx => simp only [exec, execPeek] at ht; split at ht <;> (cases ht; cases hr; rfl)
  | checksum f => simp only [exec, execChecksum] at ht; split at ht <;> (cases ht; cases hr; rfl)
  | _ => cases ht; cases hr; rfl

/-- Settles O38: DSTEP and FRAME_RX deliver the results of completed frames only, and no other command delivers any. -/
theorem resultsComeFromCompletedFramesOnly : Obligations.ResultsComeFromCompletedFramesOnly := by
  intro i s t r ht hr hrv
  by_cases hd : i = .dstep
  · subst hd
    obtain ⟨hc, hcur, hacc, haddr, hstat⟩ := execDstep_completes ht hr hrv
    exact .inl ⟨rfl, hc, hcur, hacc, haddr, hstat⟩
  · by_cases hf : ∃ f, i = .frameRx f
    · obtain ⟨f, rfl⟩ := hf
      obtain ⟨n, hn, v, hv, hc, hcur, hacc, haddr, hstat⟩ :=
        receive_completes f.toList (List.ne_nil_of_length_pos (by simp)) ht hr hrv
      rw [f.getElem_toList hn] at hv
      exact .inr ⟨f, n, by simpa using hn, v, rfl, hv, hc, hcur, hacc, haddr, hstat⟩
    · rw [exec_rv_eq_false hd (not_exists.1 hf) ht hr] at hrv
      cases hrv

/-! ## DRAIN (R150) -/

/-- One step of a drain cycle with no producer at work: the cycle has ended, or one element less is held. -/
theorem step_drain {s : State} (hrst : s.rst = false) (hp : s.producer = []) (hcons : s.consumer = [.drain]) :
    ∃ u, step s = .next u ∧
      ((u.consumer = [] ∧ ∃ r, u.resp = some r ∧ (r.rv = true ∨ (r.ok = false ∧ u.count = 0))) ∨
       (u.rst = false ∧ u.producer = [] ∧ u.consumer = [.drain] ∧ u.count + 1 = s.count)) := by
  obtain ⟨t, ht⟩ := exec_next .dstep s
  have hnext : s.nextAgent = some .consumer := by simp [State.nextAgent, hp, hcons]
  obtain ⟨_, htp, _, htrst, _⟩ := exec_outside .dstep s t ht
  refine ⟨_, step_of_decode hrst hnext hcons (decode_drain s.params) ht, ?_⟩
  rcases execDstep_cases s with ⟨hc, e⟩ | ⟨hc, e⟩ <;> (rw [exec, e] at ht; cases ht)
  · exact .inl ⟨rfl, _, rfl, .inr ⟨rfl, hc⟩⟩
  · cases hresult : (parseByte (s.readRb s.rd) s.removeOldest).2 with
    | some result => exact .inl ⟨rfl, _, rfl, .inl rfl⟩
    | none =>
      obtain ⟨_, _, hcount, _⟩ := parseByte_ring (s.readRb s.rd) s.removeOldest
      refine .inr ⟨htrst.trans hrst, htp.trans hp, rfl, ?_⟩
      show (parseByte (s.readRb s.rd) s.removeOldest).1.count + 1 = s.count
      rw [hcount, State.removeOldest_count]
      omega

/-- A run of the machine goes on from where its first step leads. -/
theorem core_run_succ {s u : State} (hu : step s = .next u) (k : Nat) :
    Host.Core.run core (k + 1) s = Host.Core.run core k u := by
  simp only [Host.Core.run, show core.step s = .next u from hu]

/-- Settles O55, by induction on `count`, which every step that does not end the cycle lowers. -/
theorem drainCycleEnds : Obligations.DrainCycleEnds := by
  intro s
  induction hn : s.count generalizing s with
  | zero =>
    intro hrst hp hcons
    obtain ⟨u, hu, ⟨hdone, r, hr, hend⟩ | ⟨_, _, _, hcount⟩⟩ := step_drain hrst hp hcons
    · exact ⟨1, u, r, le_rfl, le_rfl, core_run_succ hu 0, hdone, hr, hend⟩
    · omega
  | succ n ih =>
    intro hrst hp hcons
    obtain ⟨u, hu, ⟨hdone, r, hr, hend⟩ | ⟨hurst, hup, hucons, hcount⟩⟩ := step_drain hrst hp hcons
    · exact ⟨1, u, r, le_rfl, by omega, core_run_succ hu 0, hdone, hr, hend⟩
    · obtain ⟨k, t, r, hk, hkn, hrun, hend⟩ := ih u (by omega) hurst hup hucons
      exact ⟨k + 1, t, r, by omega, by omega, (core_run_succ hu k).trans hrun, hend⟩

end Sys2Proof.Machine

/-! # Proofs of 42_frame_builder.md: the answer of BUILD, and a built frame fed to the parser -/

namespace Sys2Proof.Machine

/-- Settles O43: the frame is the pattern of R81, whose byte 10 is the XOR of its window. -/
theorem buildResult : Obligations.BuildResult := by
  intro a c s
  refine ⟨0x0B#8 ^^^ c, ?_, (built_window_xor a c).symm, rfl⟩
  rw [exec, execBuild, buildFrame_eq_builtPattern]
  rfl

/-- The pattern of R81 is an accepted frame: its checksum byte is the XOR of its window (R82). -/
theorem acceptedFrame_builtPattern (a c : Byte) : AcceptedFrame (builtPattern a c) := by
  have hwindow : windowXor (byteAt (builtPattern a c)) 9 =
      0x00#8 ^^^ 0x09#8 ^^^ a ^^^ 0x03#8 ^^^ 0x01#8 ^^^ a ^^^ 0x00#8 ^^^ c ^^^ 0x00#8 := rfl
  refine ⟨rfl, rfl, (accepts_iff_of_len9 rfl).2 ?_⟩
  rw [hwindow, BitVec.zero_xor, built_window_xor]
  rfl

/-- A built frame read back gives its address and the constant 0x00 of byte 7, not its command (R172, C1). -/
theorem frameResult_builtPattern (a c : Byte) : frameResult (builtPattern a c) = (a, 0x00#8) := rfl

/-- Settles O45: the frame is assembled byte by byte, and its thirteenth byte shows it accepted. -/
theorem builtFrameRoundTrip : Obligations.BuiltFrameRoundTrip := by
  intro a c s hcur
  obtain ⟨h0, h1, haccepts⟩ := acceptedFrame_builtPattern a c
  have header := header_of_bytes h0 h1
  obtain ⟨_, hnone⟩ := assembled_feed_take header hcur 12 le_rfl
  obtain ⟨hzero, _, hresults⟩ := feed_frame_with_header header hcur
  rw [if_pos haccepts, frameResult_builtPattern] at hresults
  rw [buildFrame_eq_builtPattern]
  exact ⟨hnone, hresults, hzero⟩

end Sys2Proof.Machine

/-! # Proofs of 43_checksum.md: the checksum for every value of byte 2, what it depends on, and the answer of CHECKSUM -/

namespace Sys2Proof.Machine

/-- A window inside the frame has its XOR as the checksum (R180). -/
theorem chk_of_inside {f : Frame} (h : f[2].toNat ≤ 12) : chk f = some (windowXor (byteAt f) f[2].toNat) :=
  (chk_eq f).trans (if_pos h)

/-- A window that leaves the frame has no checksum (R182). -/
theorem chk_of_outside {f : Frame} (h : 12 < f[2].toNat) : chk f = none :=
  (chk_eq f).trans (if_neg (Nat.not_le.2 h))

/-! ## Every value of byte 2 -/

/-- The XOR of an empty window (R181). -/
theorem windowXor_empty (f : Nat → Byte) {n : Nat} (h : n < 2) : windowXor f n = 0x00#8 := by
  interval_cases n <;> rfl

/-- A window that is not empty starts from its first byte, since 0x00 is the identity of XOR. -/
theorem windowXor_eq_foldl (f : Nat → Byte) (n : Nat) :
    windowXor f (n + 2) = (List.range' 3 n).foldl (fun acc i => acc ^^^ f i) (f 2) := by
  induction n with
  | zero => exact BitVec.zero_xor
  | succ n ih =>
    rw [List.range'_1_concat, List.foldl_append, ← ih, Nat.add_comm 3 n]
    rfl

/-- The checksum over `n` bytes after byte 2. -/
theorem chk_of_len (n : Nat) (hn : n ≤ 10) {f : Frame} (h : f[2].toNat = n + 2) :
    chk f = some ((List.range' 3 n).foldl (fun acc i => acc ^^^ byteAt f i) f[2]) := by
  rw [chk_of_inside (by omega), h, windowXor_eq_foldl]
  rfl

/-- Settles O39: the empty window, each window of one to eleven bytes, and the window that leaves the frame; with one or
two bytes, byte 2 is written as its value. -/
theorem checksumForEveryLength : Obligations.ChecksumForEveryLength := by
  intro f
  have hlen {n : Nat} (h : f[2].toNat = n) : f[2] = BitVec.ofNat 8 n := by
    rw [← h, BitVec.ofNat_toNat, BitVec.setWidth_eq]
  refine ⟨fun h => ?_, fun h => ?_, fun h => ?_, chk_of_len 2 (by decide), chk_of_len 3 (by decide),
    chk_of_len 4 (by decide), chk_of_len 5 (by decide), chk_of_len 6 (by decide), chk_of_len 7 (by decide),
    chk_of_len 8 (by decide), chk_of_len 9 (by decide), chk_of_len 10 (by decide), chk_of_outside⟩
  · rw [chk_of_inside (by omega), windowXor_empty _ h]
  · rw [← hlen h]
    exact chk_of_len 0 (by decide) h
  · rw [← hlen h]
    exact chk_of_len 1 (by decide) h

/-! ## The command -/

/-- Settles O40: CHECKSUM answers what `Chk` answers, and only answers. -/
theorem checksumCommandResult : Obligations.ChecksumCommandResult := by
  intro f s
  constructor
  · intro h
    rw [exec, execChecksum, chk_of_inside h]
    rfl
  · intro h
    rw [exec, execChecksum, chk_of_outside h]
    rfl

/-! ## What the checksum depends on -/

/-- Settles O41: byte 2 says whether the window lies inside the frame, and then the window's bytes are the same. -/
theorem checksumReadsTheWindowOnly : Obligations.ChecksumReadsTheWindowOnly := by
  intro f g h
  have h2 : g[2] = f[2] := h 2 (by decide) le_rfl (le_max_left ..)
  rcases Nat.lt_or_ge 12 f[2].toNat with hout | hin
  · rw [chk_of_outside hout, chk_of_outside (h2 ▸ hout)]
  · rw [chk_of_inside hin, chk_of_inside (h2 ▸ hin), h2]
    refine congrArg some (windowXor_congr _ _ _ fun i hi hle => ?_)
    rw [byteAt_eq_getElem g i (by omega), byteAt_eq_getElem f i (by omega)]
    exact h i (by omega) hi (le_max_of_le_right hle)

/-- Settles O42: byte 2 and so the window stay, and the window's XOR moves with its byte (`windowXor_shift`). -/
theorem checksumShiftsByTheDifference : Obligations.ChecksumShiftsByTheDifference := by
  intro f i d c hi h3 hle hc
  have h2 : (f.set i (f[i] ^^^ d) hi)[2] = f[2] := Vector.getElem_set_ne hi (by decide) (by omega)
  have hin : f[2].toNat ≤ 12 := Nat.not_lt.1 fun hout => by simp [chk_of_outside hout] at hc
  obtain rfl : windowXor (byteAt f) f[2].toNat = c := Option.some.inj ((chk_of_inside hin).symm.trans hc)
  have hwindow : windowXor (byteAt (f.set i (f[i] ^^^ d) hi)) f[2].toNat =
      windowXor (changedByte (byteAt f) i d) f[2].toNat :=
    windowXor_congr _ _ _ fun j _ hj => byteAt_set_xor f i hi d j (by omega)
  rw [chk_of_inside (h2 ▸ hin), h2, hwindow]
  exact congrArg some (windowXor_shift (byteAt f) _ i d (by omega) hle)

end Sys2Proof.Machine

/-! # Proofs of 60_exceptions.md: every command answers, no servable request stops a step, and the idle block -/

namespace Sys2Proof.Machine

/-! ## Every command returns a response -/

/-- An insertion returns a response (R110, R111). -/
theorem execInsert_answers {b : Byte} {s t : State} (ht : execInsert b s = .next t) : t.resp.isSome = true := by
  rcases execInsert_cases b s with ⟨_, _, e⟩ | ⟨_, _, e⟩ | ⟨_, e⟩ <;> (rw [e] at ht; cases ht; rfl)

/-- A DSTEP returns a response (R147). -/
theorem execDstep_answers {s t : State} (ht : execDstep s = .next t) : t.resp.isSome = true := by
  rcases execDstep_cases s with ⟨_, e⟩ | ⟨_, e⟩ <;> (rw [e] at ht; cases ht; rfl)

/-- Keeping a response leaves one on the ports if there was one. -/
theorem keepResult_answers (o : Option Response) {t : State} (ht : t.resp.isSome = true) :
    (keepResult o t).resp.isSome = true := by
  rcases keepResult_cases o t with e | ⟨r, e⟩ <;> rw [e]
  · exact ht
  · rfl

/-- A run of at least one byte returns a response: its first DSTEP does, and what comes after keeps one there. -/
theorem receive_answers {bs : List Byte} (hbs : bs ≠ []) {s u : State} (hu : receive bs s = .next u) :
    u.resp.isSome = true := by
  cases bs with
  | nil => exact absurd rfl hbs
  | cons b bs =>
    obtain ⟨_, v, _, _, hdstep, hv⟩ := receiveByte_next b s
    rw [receive, hv, andThen_next, andThen_eq_next] at hu
    obtain ⟨w, hw, hkeep⟩ := hu
    cases hkeep
    have hrest : w.resp.isSome = true :=
      receive_keeps (P := fun t => t.resp.isSome = true) (fun _ _ _ _ => execInsert_answers)
        (fun _ _ _ => execDstep_answers) (fun _ _ _ => rfl) bs v w (execDstep_answers hdstep) hw
    exact keepResult_answers v.resp hrest

/-- Every command that completes returns a response (R190). -/
theorem exec_answers {i : Instr} {s t : State} (ht : exec i s = .next t) : t.resp.isSome = true := by
  rcases exec_cases i s t ht with ⟨_, rfl⟩ | ⟨_, _, _, _, rfl⟩ | ⟨_, _, _, _, rfl⟩ | ⟨_, _, _, rfl⟩ |
    ⟨_, _, rfl⟩ | ⟨_, _, _, rfl⟩ | ⟨f, _, hrun⟩
  any_goals rfl
  exact receive_answers (List.ne_nil_of_length_pos (by simp)) hrun

/-- Settles O12: every command completes (`exec_next`), and one that completes returns a response. -/
theorem everyCommandCompletes : Obligations.EveryCommandCompletes := by
  intro i s
  obtain ⟨t, ht⟩ := exec_next i s
  exact ⟨t, ht, exec_answers ht⟩

/-! ## No step stops -/

/-- A command word is an instruction or has a reserved opcode; it is no frame off the line (R86, R89). -/
theorem decodeCommand_ne_notABuiltFrame (cw : CmdWord) (fin : FrameWord) (f : Frame) :
    decodeCommand cw fin ≠ .error (.notABuiltFrame f) := by
  unfold decodeCommand
  split <;> nofun

/-- An inbound run is FRAME_RX or noise (R82, R140). -/
theorem decodeInbound_ne_notABuiltFrame (g f : Frame) : decodeInbound g ≠ .error (.notABuiltFrame f) := by
  unfold decodeInbound
  split <;> nofun

/-- An outbound run that BUILD emits is FRAME_TX (R81). -/
theorem decodeOutbound_builtPattern (a c : Byte) : decodeOutbound (builtPattern a c) = .ok (.frameTx a c) :=
  if_pos rfl

/-- The words of a servable request are not the one transaction that the machine refuses (entry 17). -/
theorem Request.Servable.decode_ne_notABuiltFrame {q : Request} (hq : q.Servable) (p : Params) (f : Frame) :
    decode (q.words p) ≠ .error (.notABuiltFrame f) := by
  cases q with
  | txn w =>
    match w, hq with
    | .port cw fin, _ => exact decodeCommand_ne_notABuiltFrame cw fin f
    | .wire .inbound w, _ => exact decodeInbound_ne_notABuiltFrame (unpackFrame w) f
    | .wire .outbound w, ⟨a, c, hbuilt⟩ =>
      rw [Request.words, decode, hbuilt, decodeOutbound_builtPattern]
      nofun
  | arrival b => rw [decode_arrival]; nofun
  | drain => rw [decode_drain]; nofun

/-- Words that are no instruction are answered, unless they are the refused outbound run (R89, R140; entry 17). -/
theorem execUndecoded_next {e : DecodeError} (he : ∀ f, e ≠ .notABuiltFrame f) (s : State) :
    ∃ t, execUndecoded e s = .next t := by
  cases e with
  | reservedOpcode op => exact ⟨_, rfl⟩
  | noHeader f => exact receive_next f.toList s
  | notABuiltFrame f => exact absurd rfl (he f)

/-- The words of a servable request are answered. -/
theorem Request.Servable.runWords_next {q : Request} (hq : q.Servable) (p : Params) (s : State) :
    ∃ t, runWords (q.words p) s = .next t := by
  cases hd : decode (q.words p) with
  | ok i => simpa only [runWords, hd] using exec_next i s
  | error e =>
    have he (f : Frame) : e ≠ .notABuiltFrame f := fun h => hq.decode_ne_notABuiltFrame p f (h ▸ hd)
    simpa only [runWords, hd] using execUndecoded_next he s

/-- Settles O13: a step is a hardware reset, idle, or serves a request, which is booked on the state its words
answer. -/
theorem stepNeverStops : Obligations.StepNeverStops := by
  intro s hproducer hconsumer
  cases hr : s.rst with
  | true => exact ⟨_, step_hardwareReset s hr⟩
  | false =>
    rcases s.nextAgent_cases with ⟨hp, hc⟩ | ⟨a, q, rest, hn, hq⟩
    · exact ⟨s, step_idle s hr hp hc⟩
    · have hmem : q ∈ s.queue a := hq ▸ List.mem_cons_self
      have hservable : q.Servable := by
        cases a with
        | producer => exact hproducer q hmem
        | consumer => exact hconsumer q hmem
      obtain ⟨t, ht⟩ := hservable.runWords_next s.params s
      exact ⟨retire a q rest t, by rw [step_serve s a q rest hr hn hq, serve, ht, retireOutcome]⟩

/-! ## The idle block -/

/-- Settles O8: nothing is fetched, so the step answers the state it was given (`step_idle`). -/
theorem idleBlockHoldsItsState : Obligations.IdleBlockHoldsItsState := step_idle

end Sys2Proof.Machine

/-! # Proofs of 70_reset_and_hazards.md: hardware reset, the first responses after it, and the frame after a stray header -/

namespace Sys2Proof.Machine

open Config

/-! ## A stray header (R234) -/

/-- Past byte 2, storing a byte at the cursor leaves the LEN that stands in FB. -/
theorem readFb_len_parseByte {s : State} (b : Byte) (h3 : 3 ≤ s.cur.val) : (parseByte b s).1.readFb 2 = s.readFb 2 := by
  have hstored : ¬ (s.cur.val < 2 ∧ b ≠ HEAD) := by omega
  have hne : 2 ≠ s.cur.val := by omega
  rw [State.readFb, parseByte_fb, if_neg hstored, Memory.lookup_write, if_neg hne]
  rfl

/-- Once byte 2 puts the window outside the frame, the bytes that complete the frame bring no result (R144 case 1). -/
theorem feed_rest_of_outside (bs : List Byte) {s : State} (h3 : 3 ≤ s.cur.val) (hlen : 12 < (s.readFb 2).toNat)
    (hrest : s.cur.val + bs.length = 13) : (feed bs s).2 = [] ∧ (feed bs s).1.cur = 0 := by
  induction bs generalizing s with
  | nil => exact absurd hrest (Nat.ne_of_lt s.cur.isLt)
  | cons b bs ih =>
    rw [List.length_cons] at hrest
    by_cases hlast : s.cur.val = 12
    · obtain rfl : bs = [] := List.eq_nil_of_length_eq_zero (by omega)
      have hrejected : ¬ Accepts (s.completed b) := fun hacc => absurd hacc.1 (Nat.not_le.2 hlen)
      rw [feed_cons, parseByte_last b s hlast, if_neg hrejected]
      exact ⟨rfl, rfl⟩
    · have hstore := parseByte_body b s (by omega) (by omega)
      have hcur : (parseByte b s).1.cur.val = s.cur.val + 1 := by rw [hstore]; rfl
      have hnone : (parseByte b s).2 = none := by rw [hstore]
      rw [feed_cons, hnone]
      exact ih (by omega) (by rwa [readFb_len_parseByte b h3]) (by omega)

/-- From `cur = 1` the doubled header of a frame is taken one place too late, and its second byte stands as LEN. -/
theorem feed_header_after_stray {s : State} (hcur : s.cur.val = 1) :
    ∃ t, feed [HEAD, HEAD] s = (t, []) ∧ t.cur.val = 3 ∧ t.readFb 2 = HEAD := by
  refine ⟨(((s.writeFb 1 HEAD).setCur 2).writeFb 2 HEAD).setCur 3, ?_, rfl, ?_⟩
  · rw [feed_cons, parseByte_second HEAD s hcur, if_pos rfl, feed_cons, parseByte_body _ _ le_rfl (by simp)]
    rfl
  · rw [State.readFb_congr _ _ (State.setCur_fb _ _), State.readFb_writeFb, if_pos rfl]

/-- The window of a LEN of 0x7B leaves the frame, so the twelve bytes from the doubled header on complete an invalid
frame. -/
theorem feed_twelve_after_stray {s : State} (hcur : s.cur.val = 1) {body : List Byte} (hbody : body.length = 10) :
    (feed ([HEAD, HEAD] ++ body) s).2 = [] ∧ (feed ([HEAD, HEAD] ++ body) s).1.cur = 0 := by
  obtain ⟨t, htaken, hthree, hlen⟩ := feed_header_after_stray hcur
  rw [feed_append, htaken]
  exact feed_rest_of_outside (s := t) body hthree.ge (by rw [hlen]; decide) (by omega)

/-- A run with the doubled header, cut behind its header and before its last byte. -/
theorem frame_toList_of_header {f : Frame} (h0 : f[0] = HEAD) (h1 : f[1] = HEAD) :
    f.toList = [HEAD, HEAD] ++ (f.toList.drop 2).take 10 ++ [f[12]] :=
  calc f.toList
      = f.toList.take 12 ++ [f[12]] := by
        rw [← frame_take_succ f 12 (by decide), List.take_of_length_le f.length_toList.le]
    _ = f.toList.take 2 ++ (f.toList.drop 2).take 10 ++ [f[12]] := by rw [← List.take_add]
    _ = [HEAD, HEAD] ++ (f.toList.drop 2).take 10 ++ [f[12]] := by
        rw [frame_take_succ f 1 (by decide), frame_take_succ f 0 (by decide), h0, h1]
        rfl

/-- Settles O35: the garbage is discarded, twelve bytes of the frame complete an invalid frame, and its last byte is
discarded in the search for the next header. -/
theorem frameAfterAStrayHeaderIsLost : Obligations.FrameAfterAStrayHeaderIsLost := by
  intro garbage f s hstray hcur hgarbage ⟨h0, h1, _⟩ hlast
  obtain ⟨hnone, hzero⟩ := feed_twelve_after_stray hcur (body := (f.toList.drop 2).take 10) (by simp)
  have htail := feed_noise_append (by rw [hzero]; decide) (.inl hzero) (mt List.mem_singleton.1 hlast.symm) []
  rw [List.append_nil, feed_nil] at htail
  rw [feed_noise_append (by omega) (.inr hstray) hgarbage, frame_toList_of_header h0 h1, feed_append, htail, hnone]
  exact ⟨_, rfl, hzero⟩

/-! ## Hardware reset -/

/-- Settles O9: the step serves the assertion (`step_hardwareReset`), and `State.hardwareReset` writes what R220 names. -/
theorem hardwareResetEffect : Obligations.HardwareResetEffect := fun s hrst =>
  ⟨s.hardwareReset, step_hardwareReset s hrst, rfl, rfl, rfl, rfl, rfl, rfl, rfl, rfl, rfl, rfl, rfl, rfl, rfl⟩

/-- Settles O11: after reset `count` is 0, which is less than any capacity, and the commands answer as from any empty
ring. -/
theorem firstResponsesAfterReset : Obligations.FirstResponsesAfterReset := by
  intro p s hs
  have hcount : s.count = 0 := congrArg State.count hs
  have hroom : s.count ≠ s.cap := hcount ▸ Nat.ne_of_lt s.cap_pos
  obtain ⟨_, hempty, hfull⟩ := queryResults s
  rw [if_pos hcount] at hempty
  rw [if_neg hroom] at hfull
  have hzero : exec .count s = .next (s.respond (.value true 0)) := by
    rw [exec, execCount, hcount]
    rfl
  exact ⟨⟨_, (popResult s).1 hcount⟩, fun idx => (peekResult idx s).1 (hcount ▸ Nat.zero_le _), hzero, hempty, hfull,
    dstepOnAnEmptyRing s hcount⟩

end Sys2Proof.Machine
